-- ==== Sys2Proof/Word.lean ====
section
/-! DEFINITION. The words of the machine: 32-bit registers and addresses, 8-bit bytes, binary32 words. -/

namespace Sys2Proof

/-- A register, an address or a command word: 32 bits (10_state.md R23, 20_memory.md R40). -/
abbrev Word := BitVec 32

/-- A byte of MEM (10_state.md R33). -/
abbrev Byte := BitVec 8

/-- The word of an IEEE 754 binary32 value (00_scope.md R8, R9): registers and memory hold words, and the
model computes on words throughout, so `bitsF` and `valF` are the identity (log 8). -/
abbrev F32 := BitVec 32

end Sys2Proof
end

