-- ==== Sys2Proof/Config.lean ====
section
/-! DEFINITION. What an implementation fixes: the open parameters of 00_scope.md R5 and the one free value. -/

namespace Sys2Proof

/-- The tie rule of `round_to_nearest` (00_scope.md R5, R15; 93_implementation_defined.md U6). -/
inductive RoundTie where
  | away
  | even
deriving DecidableEq, Repr

/-- The open parameters of an instance (00_scope.md R5). 10_state.md R20: they are no state but arguments of
the model. They stand in State as plain data that no step changes, so that a statement about every state
holds for every value of them. -/
structure Params where
  /-- `ROUND_TIE`. -/
  roundTie : RoundTie
  /-- The last address of MEM: `MEM_SIZE = memTop + 1`, so every value of `1 <= MEM_SIZE <= 2^32` is one. -/
  memTop : BitVec 32
  /-- `REG_BASE`: where the platform places REG in the host's own address map, whose width no rule gives. Every
  rule uses offsets from it (92_eei_decisions.md D4; log 21). -/
  regBase : Nat
deriving DecidableEq, Repr

/-- `MEM_SIZE`, the number of bytes of memory that exist (00_scope.md R5, 20_memory.md R40). -/
def Params.memSize (p : Params) : Nat := p.memTop.toNat + 1

/-- The byte that address `a` of MEM holds at power-on: every byte has some value, the same on every read
until it is written, and no rule may assume which (70_reset_and_hazards.md R161, U4). A free value: it has
no body, so nothing can be proved of it. DESIGN CHOICE, log 4, safe. -/
opaque Config.powerOnByte : Nat → Byte

end Sys2Proof
end

