-- ==== Sys2Proof/Machine/F32.lean ====
section
/-! DEFINITION. IEEE 754 binary32 and its primitives (00_scope.md R8 to R16; log 7), on words.

Every finite binary32 value is an integer multiple of `2^-149`, so exact values are held as integers in units
of `2^-149` and exact quotients as pairs of naturals; each operation computes exactly and rounds once. -/

namespace Sys2Proof.Machine

open Sys2Proof

/-! ### Layout (R9) -/

/-- The sign bit `w[31]`. -/
def fSign (w : F32) : Bool := w.getLsbD 31

/-- The biased exponent `w[30:23]`. -/
def fExp (w : F32) : Nat := (w.extractLsb' 23 8).toNat

/-- The fraction `w[22:0]`. -/
def fFrac (w : F32) : Nat := (w.extractLsb' 0 23).toNat

/-- `finite(w)`: the exponent is not 255. -/
def fFinite (w : F32) : Bool := fExp w != 255

/-- Exponent 255, fraction not 0. -/
def fIsNaN (w : F32) : Bool := fExp w == 255 && fFrac w != 0

/-- Exponent 255, fraction 0. -/
def fIsInf (w : F32) : Bool := fExp w == 255 && fFrac w == 0

/-- `+0` or `-0`. -/
def fIsZero (w : F32) : Bool := fExp w == 0 && fFrac w == 0

/-- The magnitude of a finite word in units of `2^-149`: a subnormal's is `m`, a normal's `(2^23 + m) * 2^(e-1)`.
At an infinity the same formula gives `2^277`, which is above the magnitude of every finite word. -/
def fMag (w : F32) : Nat := if fExp w = 0 then fFrac w else (2 ^ 23 + fFrac w) * 2 ^ (fExp w - 1)

/-- The value of a finite word in units of `2^-149`; an infinity lies beyond every finite value
(log 23). -/
def fUnits (w : F32) : Int := if fSign w then -(fMag w : Int) else (fMag w : Int)

/-- The NaN a primitive returns (R11). -/
def fNaN : F32 := 0x7FC00000

/-- `1.0` (40_range_calibration.md R87). -/
def fOne : F32 := 0x3F800000

/-- `-128.0`, the exact `i2f(QMIN)` (R13). -/
def fQmin : F32 := 0xC3000000

/-- `255.0`, the exact `i2f(QMAX - QMIN)` (R13). -/
def fQspan : F32 := 0x437F0000

/-- The word with sign `neg` and magnitude bits `mag < 2^31`. -/
def fPack (neg : Bool) (mag : Nat) : F32 :=
  match neg with
  | true => BitVec.ofNat 32 (2 ^ 31 + mag)
  | false => BitVec.ofNat 32 mag

/-- The zero of a sign. -/
def fZero (neg : Bool) : F32 := fPack neg 0

/-- The infinity of a sign. -/
def fInf (neg : Bool) : F32 := fPack neg 0x7F800000

/-! ### Rounding (R10) -/

/-- The integer nearest to `num / den`, the even one of two equally near. -/
def roundHalfEven (num den : Nat) : Nat :=
  if 2 * (num % den) < den then num / den
  else if den < 2 * (num % den) then num / den + 1
  else if num / den % 2 = 0 then num / den
  else num / den + 1

/-- The exponent of the grid on which `num / den` units are rounded: the spacing is `2^gridExp` units, 1 unit
(`2^-149`) in the subnormal range and the first normal binade. -/
def gridExp (num den : Nat) : Nat := Nat.log2 (num / den) - 23

/-- `rnd32` of the exact value `num / den` units of `2^-149` (`den > 0`) with sign `neg`: nearest, ties to the
even fraction, subnormals kept, overflow to the infinity of the sign (R10). With `n` multiples of the grid's
spacing, `gridExp * 2^23 + n` is the magnitude word, also where rounding carries into the next binade. -/
def rnd32 (neg : Bool) (num den : Nat) : F32 :=
  fPack neg
    (min (gridExp num den * 2 ^ 23 + roundHalfEven num (den * 2 ^ gridExp num den)) 0x7F800000)

/-! ### Arithmetic (R11, R13) -/

/-- `fsub(a, b)` (R11). -/
def fsub (a b : F32) : F32 :=
  if fIsNaN a || fIsNaN b then fNaN
  else if fIsInf a && fIsInf b && fSign a == fSign b then fNaN
  else if fIsInf a then fInf (fSign a)
  else if fIsInf b then fInf (!fSign b)
  else if fUnits a - fUnits b = 0 then fZero (fIsZero a && fIsZero b && fSign a && !fSign b)
  else rnd32 (decide (fUnits a - fUnits b < 0)) (fUnits a - fUnits b).natAbs 1

/-- `fmul(a, b)` (R11). -/
def fmul (a b : F32) : F32 :=
  if fIsNaN a || fIsNaN b then fNaN
  else if (fIsInf a && fIsZero b) || (fIsZero a && fIsInf b) then fNaN
  else if fIsInf a || fIsInf b then fInf (fSign a ^^ fSign b)
  else rnd32 (fSign a ^^ fSign b) (fMag a * fMag b) (2 ^ 149)

/-- `fdiv(a, b)` (R11). The sign of a zero quotient of finite operands is the XOR of the operand signs
(log 22). -/
def fdiv (a b : F32) : F32 :=
  if fIsNaN a || fIsNaN b then fNaN
  else if (fIsZero a && fIsZero b) || (fIsInf a && fIsInf b) then fNaN
  else if fIsInf b then fZero (fSign a ^^ fSign b)
  else if fIsZero b || fIsInf a then fInf (fSign a ^^ fSign b)
  else rnd32 (fSign a ^^ fSign b) (fMag a * 2 ^ 149) (fMag b)

/-- `i2f(z)` (R13). -/
def i2f (z : Int) : F32 := rnd32 (decide (z < 0)) (z.natAbs * 2 ^ 149) 1

/-! ### Comparisons by value (R12) -/

/-- `flt(a, b)`. -/
def flt (a b : F32) : Bool := !fIsNaN a && !fIsNaN b && decide (fUnits a < fUnits b)

/-- `fgt(a, b)`. -/
def fgt (a b : F32) : Bool := !fIsNaN a && !fIsNaN b && decide (fUnits b < fUnits a)

/-- `feq(a, b)`. -/
def feq (a b : F32) : Bool := !fIsNaN a && !fIsNaN b && decide (fUnits a = fUnits b)

/-! ### Conversions to integers (R14, R15, R16) -/

/-- `T(x)`: the integer part of a finite value, the fraction discarded toward zero (R14). -/
def fTrunc (x : F32) : Int := if fSign x then -((fMag x / 2 ^ 149 : Nat) : Int) else ((fMag x / 2 ^ 149 : Nat) : Int)

/-- `ftrunc_sat32(x)`: the integer and the bit `nv` (R14). -/
def ftruncSat32 (x : F32) : Int × Bool :=
  if fIsNaN x then (0, true)
  else if (fIsInf x && !fSign x) || (fFinite x && decide (2 ^ 31 - 1 < fTrunc x)) then (2 ^ 31 - 1, true)
  else if (fIsInf x && fSign x) || (fFinite x && decide (fTrunc x < -2 ^ 31)) then (-2 ^ 31, true)
  else (fTrunc x, false)

/-- The natural nearest to `mag` units of `2^-149`, under a tie rule. -/
def roundMag (tie : RoundTie) (mag : Nat) : Nat :=
  if 2 * (mag % 2 ^ 149) < 2 ^ 149 then mag / 2 ^ 149
  else if 2 ^ 149 < 2 * (mag % 2 ^ 149) then mag / 2 ^ 149 + 1
  else match tie with
    | .away => mag / 2 ^ 149 + 1
    | .even => if mag / 2 ^ 149 % 2 = 0 then mag / 2 ^ 149 else mag / 2 ^ 149 + 1

/-- `fround(x)` of a finite value under the tie rule `ROUND_TIE` (R15). No rule applies it to a NaN or an infinity
(log 23). -/
def fround (tie : RoundTie) (x : F32) : Int :=
  if fSign x then -(roundMag tie (fMag x) : Int) else (roundMag tie (fMag x) : Int)

/-- `clamp8(z)` (R16): `QMIN = -128`, `QMAX = 127` (R5). -/
def clamp8 (z : Int) : Int := if z < -128 then -128 else if 127 < z then 127 else z

/-- `valid_scale(w)`: finite and greater than zero (42_dequantize.md R122). -/
def validScale (w : F32) : Bool := fFinite w && fgt w (fZero false)

end Sys2Proof.Machine
end

