-- ==== Sys2Proof/Syntax.lean ====
section
/-! DEFINITION. The commands (one constructor per row of spec/opcode_table.json), the register names, and the
host operations that are the steps of the machine (30_encoding.md R60 to R68, R75). -/

namespace Sys2Proof

/-- The whole instruction set (30_encoding.md R68). Every operand is implicit in the registers (R71). -/
inductive Instr where
  /-- Range-find, calibrate and quantize the F32 buffer into the I8 buffer (41_quantize.md R103). -/
  | quantize
  /-- Dequantize the code in `DQ_CODE` into `DQ_RESULT` (42_dequantize.md R123). -/
  | deq
  /-- Dequantize every code of the I8 buffer into the F32 buffer (42_dequantize.md R126). -/
  | deqb
deriving DecidableEq, Repr

/-- The twelve registers of REG (10_state.md R23). -/
inductive Reg where
  | cmd | status | f32Base | f32Len | i8Base | i8Len | scale | zp | min | max | dqCode | dqResult
deriving DecidableEq, Repr

/-- Every register, in the order of the register map (10_state.md R23). -/
def Reg.all : List Reg :=
  [.cmd, .status, .f32Base, .f32Len, .i8Base, .i8Len, .scale, .zp, .min, .max, .dqCode, .dqResult]

/-- The widths `n` of `MemRead` and `MemWrite`: 1, 2 or 4 bytes (20_memory.md R44, R45). -/
inductive AccessWidth where
  | w1 | w2 | w4
deriving DecidableEq, Repr

/-- The width in bytes. -/
def AccessWidth.bytes : AccessWidth → Nat
  | .w1 => 1
  | .w2 => 2
  | .w4 => 4

/-- The width in bits. -/
def AccessWidth.bits : AccessWidth → Nat
  | .w1 => 8
  | .w2 => 16
  | .w4 => 32

/-- A host operation, in the tuple form of 30_encoding.md R66: the only things that change the machine (R60).
A stored datum has exactly the width of its access (log 15). -/
inductive HostOp where
  /-- `(R, off)`, R61. -/
  | rd (off : Word)
  /-- `(W, off, data)`, R62; at the offset of `CMD` it issues a command. -/
  | wr (off : Word) (v : Word)
  /-- `(LD, n, addr)`, R63. -/
  | ld (n : AccessWidth) (addr : Word)
  /-- `(ST, n, addr, data)`, R64. -/
  | st (n : AccessWidth) (addr : Word) (v : BitVec n.bits)
  /-- `(RESET)`, R65. -/
  | reset
deriving DecidableEq, Repr

/-- The pseudo-instructions of the script syntax (30_encoding.md R75). -/
inductive Pseudo where
  | quantize
  | deq
  | deqb
  | setf32 (base len : Word)
  | seti8 (base len : Word)
  | fillf32 (addr : Word) (values : List F32)
deriving DecidableEq, Repr

end Sys2Proof
end

