-- ==== Sys2Proof/WellFormed.lean ====
section
/-! DEFINITION. Which instructions and host operations are well formed: the register map's offsets. -/

namespace Sys2Proof

/-- A command has no operand, so every `Instr` is well formed (30_encoding.md R67, R71). -/
def Instr.wellFormed : Instr → Bool
  | .quantize => true
  | .deq => true
  | .deqb => true

/-- The offsets the register map defines: below 0x30 and a multiple of 4 (10_state.md R23, U11). -/
def definedOffset (off : Word) : Bool := off.toNat < 0x30 && off.toNat % 4 == 0

/-- A host operation is well formed when a register access is at a defined offset (30_encoding.md R61, R62).
`ld` and `st` may use any address and any of the three widths (20_memory.md R47). -/
def HostOp.wellFormed : HostOp → Bool
  | .rd off => definedOffset off
  | .wr off _ => definedOffset off
  | .ld _ _ => true
  | .st _ _ _ => true
  | .reset => true

end Sys2Proof
end

