-- ==== Sys2Proof/Decode.lean ====
section
/-! DEFINITION. Decoding and encoding of command words and register offsets (30_encoding.md R67 to R70,
10_state.md R23), and the expansion of the pseudo-instructions (R75). -/

namespace Sys2Proof

/-- Why a word is no command. Both raise `IllegalCommand` (30_encoding.md R69, R70; log 18). -/
inductive DecodeError where
  /-- The `RSV` field is not zero. Raised by `decode`; safe. -/
  | reservedField
  /-- The `OPC` field is none of 1, 2, 3. Raised by `decode`; safe. -/
  | undefinedOpcode
deriving DecidableEq, Repr

/-- `OPC`, bits [7:0] (30_encoding.md R67). -/
def opcField (v : Word) : BitVec 8 := v.extractLsb' 0 8

/-- `RSV`, bits [31:8] (30_encoding.md R67). -/
def rsvField (v : Word) : BitVec 24 := v.extractLsb' 8 24

/-- The total decoder of 30_encoding.md R69. -/
def decode (v : Word) : Except DecodeError Instr :=
  if rsvField v ≠ 0 then .error .reservedField
  else if opcField v = 0x01 then .ok .quantize
  else if opcField v = 0x02 then .ok .deq
  else if opcField v = 0x03 then .ok .deqb
  else .error .undefinedOpcode

/-- The operation code of a command (30_encoding.md R68). -/
def opcode : Instr → BitVec 8
  | .quantize => 0x01
  | .deq => 0x02
  | .deqb => 0x03

/-- The word of a command: a zero `RSV` field above its operation code (30_encoding.md R67, R68). -/
def encode (i : Instr) : Word := (0 : BitVec 24) ++ opcode i

/-- The command word that the bits `w` of a table row stand for. A command is a 32-bit value written to
`CMD`, not bytes in memory, so no byte order is involved (30_encoding.md R67; log 18). -/
def tableWord (nbits w : Nat) : Word := BitVec.ofNat 32 (w % 2 ^ nbits)

/-- What the decoder reads from an opcode-table row's bits. -/
def decodeTableWord (nbits w : Nat) : Option Instr :=
  match decode (tableWord nbits w) with
  | .ok i => some i
  | .error _ => none

/-- The byte offset of a register from the start of REG (10_state.md R23). -/
def Reg.offset : Reg → Word
  | .cmd => 0x00
  | .status => 0x04
  | .f32Base => 0x08
  | .f32Len => 0x0C
  | .i8Base => 0x10
  | .i8Len => 0x14
  | .scale => 0x18
  | .zp => 0x1C
  | .min => 0x20
  | .max => 0x24
  | .dqCode => 0x28
  | .dqResult => 0x2C

/-- The register at an offset, none where the map defines none (10_state.md R23, U11). -/
def Reg.ofOffset (off : Word) : Option Reg := Reg.all.find? (fun r => r.offset == off)

/-- `st32 addr, v0 ; st32 addr+4, v1 ; ...` (30_encoding.md R75). Each address is the one before plus 4 modulo 2^32:
what an address past 2^32 is the spec leaves open. DESIGN CHOICE, log 24. -/
def fillOps (addr : Word) : List F32 → List HostOp
  | [] => []
  | v :: vs => .st .w4 addr v :: fillOps (addr + 4) vs

/-- The expansion of a pseudo-instruction (30_encoding.md R75). -/
def Pseudo.expand : Pseudo → List HostOp
  | .quantize => [.wr Reg.cmd.offset 0x00000001]
  | .deq => [.wr Reg.cmd.offset 0x00000002]
  | .deqb => [.wr Reg.cmd.offset 0x00000003]
  | .setf32 base len => [.wr Reg.f32Base.offset base, .wr Reg.f32Len.offset len]
  | .seti8 base len => [.wr Reg.i8Base.offset base, .wr Reg.i8Len.offset len]
  | .fillf32 addr vs => fillOps addr vs

end Sys2Proof
end

