-- ==== Sys2Proof/Machine/State.lean ====
section
/-! DEFINITION. The whole state of the machine (10_state.md R20 to R38) as plain data, the reasons a step can
stop, and the machine right after reset. -/

namespace Sys2Proof.Machine

open Sys2Proof

/-- MEM: the bytes written since power-on, as (address, byte) pairs with strictly rising addresses
(10_state.md R33). An address that is not listed has not been written (log 4). -/
abbrev Memory := List Host.Cell

/-- The error kinds a command reports in `STATUS.ERR` (60_exceptions.md R140). -/
inductive ErrorKind where
  | emptyInput
  | invalidScale
  | lengthMismatch
  | illegalCommand
deriving DecidableEq, Repr

/-- Why a step stops with no next state. -/
inductive Fault where
  /-- An access by the host or by the engine to a byte address at or above `MEM_SIZE`: it has no defined
  behaviour and the state has no step (20_memory.md R42, U10). Raised by `memRead` and `memWrite`. Safe: the
  model stops where the spec gives nothing (log 11). -/
  | outsideMemory
deriving DecidableEq, Repr

/-- Why a step is refused. -/
inductive Refusal where
  /-- An instruction without a meaning; no arm of `exec` answers so. Safe. -/
  | notModelled (mnemonic : String)
  /-- A `rd` or `wr` at an offset that the register map does not define (10_state.md R23, U11). Raised by
  `performOp`. Safe: the model stops where the spec gives nothing (log 12). -/
  | undefinedRegister (off : Word)
deriving DecidableEq, Repr

/-- The host's side of the machine (00_scope.md R17): the MODEL's own fields, log 1 and log 2. -/
@[ext]
structure HostPort where
  /-- The operations the host has issued and the machine has not yet performed, first to be performed first
  (30_encoding.md R60). -/
  script : List HostOp
  /-- The values `rd` and `ld` have returned, oldest first (30_encoding.md R61, R63). -/
  answers : List Word
deriving DecidableEq, Repr

/-- The machine: the registers of 10_state.md R23 (`CMD` has no storage), MEM (R33), the host's side and the
parameters of the instance. -/
@[ext]
structure State where
  /-- `STATUS` (R24). -/
  status : Word
  /-- `F32_BASE[31:2]`; bits [1:0] are hardwired to zero and have no storage (R25; log 17). -/
  f32BaseHi : BitVec 30
  /-- `F32_LEN` (R26). -/
  f32Len : Word
  /-- `I8_BASE` (R27). -/
  i8Base : Word
  /-- `I8_LEN` (R28). -/
  i8Len : Word
  /-- `SCALE` (R29). -/
  scale : F32
  /-- `ZP` (R30). -/
  zp : Word
  /-- `MIN` (R31). -/
  minReg : F32
  /-- `MAX` (R31). -/
  maxReg : F32
  /-- `DQ_CODE[7:0]`, the only bits stored (R32; log 17). -/
  dqCode : Byte
  /-- `DQ_RESULT` (R32). -/
  dqResult : F32
  /-- MEM (R33). -/
  mem : Memory
  /-- The host's side. The MODEL's own. -/
  host : HostPort
  /-- The parameters of the instance (00_scope.md R5). The MODEL's own; no step changes them. -/
  params : Params
deriving DecidableEq, Repr

/-- The machine right after reset (10_state.md R38, 70_reset_and_hazards.md R160), with nothing written to MEM
and no host operation issued. The three parameters are open in the spec: `MEM_SIZE = 2^32`, `ROUND_TIE = away`
and `REG_BASE = 0` stand here as DESIGN CHOICE, log 5, log 6 and log 21. -/
def State.reset : State where
  status := 0
  f32BaseHi := 0
  f32Len := 0
  i8Base := 0
  i8Len := 0
  scale := 0
  zp := 0
  minReg := 0
  maxReg := 0
  dqCode := 0
  dqResult := 0
  mem := []
  host := { script := [], answers := [] }
  params := { roundTie := .away, memTop := 0xFFFFFFFF, regBase := 0 }

end Sys2Proof.Machine
end

