-- ==== Sys2Proof/Machine/Flags.lean ====
section
/-! DEFINITION. The flags: the layout of `STATUS` and its fields (10_state.md R24), and the code of each error
kind (60_exceptions.md R140). -/

namespace Sys2Proof.Machine

open Sys2Proof

/-- The number of an error kind in `STATUS.ERR` (60_exceptions.md R140). -/
def ErrorKind.code : ErrorKind → BitVec 4
  | .emptyInput => 1
  | .invalidScale => 2
  | .lengthMismatch => 3
  | .illegalCommand => 4

/-- The `STATUS` word with the given fields and every other bit zero (10_state.md R24): bits [31:9] zero, `NV`
at [8], bits [7:5] zero, `DONE` at [4], `ERR` at [3:0]. -/
def statusWord (err : BitVec 4) (done nv : Bool) : Word :=
  (0 : BitVec 23) ++ BitVec.ofBool nv ++ (0 : BitVec 3) ++ BitVec.ofBool done ++ err

/-- `STATUS.ERR`, bits [3:0] (10_state.md R24). -/
def statusErr (w : Word) : BitVec 4 := w.extractLsb' 0 4

/-- `STATUS.DONE`, bit 4 (10_state.md R24). -/
def statusDone (w : Word) : Bool := w.getLsbD 4

/-- `STATUS.NV`, bit 8 (10_state.md R24). -/
def statusNv (w : Word) : Bool := w.getLsbD 8

end Sys2Proof.Machine
end

