-- ==== Sys2Proof/Machine/Ops.lean ====
section
/-! DEFINITION. The named operations over registers and memory (20_memory.md R42 to R45, 30_encoding.md R61,
R62), raising an error (60_exceptions.md R146) and completing a command, and the reset event
(70_reset_and_hazards.md R160). There is no return from an error (R148): the engine is ready at once. -/

namespace Sys2Proof.Machine

open Sys2Proof

/-! ### Memory as a list of written bytes -/

/-- The byte written last at an address, none where nothing has been written. -/
def Memory.find? : Memory → Nat → Option Byte
  | [], _ => none
  | (b, v) :: m, a => if a = b then some v else Memory.find? m a

/-- `MEM[a]`: the byte written last, or the power-on byte (20_memory.md R51, 70_reset_and_hazards.md R161). -/
def Memory.byte (m : Memory) (a : Nat) : Byte := (Memory.find? m a).getD (Config.powerOnByte a)

/-- `MEM[a] <- v`, in the canonical form: the entry stands at its place in the rising order. -/
def Memory.write : Memory → Nat → Byte → Memory
  | [], a, v => [(a, v)]
  | (b, w) :: m, a, v =>
    if a < b then (a, v) :: (b, w) :: m
    else if a = b then (a, v) :: m
    else (b, w) :: Memory.write m a v

/-- The canonical form of a memory: the listed addresses rise strictly. -/
abbrev Memory.wf (m : Memory) : Prop := (m.map Prod.fst).Pairwise (· < ·)

/-- The little-endian value of `n` bytes from address `a` (20_memory.md R44). -/
def Memory.readLE (m : Memory) (a : Nat) : AccessWidth → Word
  | .w1 => (Memory.byte m a).setWidth 32
  | .w2 => (Memory.byte m (a + 1) ++ Memory.byte m a).setWidth 32
  | .w4 => Memory.byte m (a + 3) ++ Memory.byte m (a + 2) ++ Memory.byte m (a + 1) ++ Memory.byte m a

/-- `MEM[a+k] <- v[8k+7:8k]` for `k = 0 .. n-1` (20_memory.md R45). -/
def Memory.writeLE (m : Memory) (a : Nat) (v : Word) : Nat → Memory
  | 0 => m
  | k + 1 => Memory.write (Memory.writeLE m a v k) (a + k) (v.extractLsb' (8 * k) 8)

/-! ### Updates of the state, each named once -/

def State.withStatus (s : State) (v : Word) : State := { s with status := v }
def State.withF32Base (s : State) (v : Word) : State := { s with f32BaseHi := v.extractLsb' 2 30 }
def State.withF32Len (s : State) (v : Word) : State := { s with f32Len := v }
def State.withI8Base (s : State) (v : Word) : State := { s with i8Base := v }
def State.withI8Len (s : State) (v : Word) : State := { s with i8Len := v }
def State.withScale (s : State) (v : Word) : State := { s with scale := v }
def State.withZp (s : State) (v : Word) : State := { s with zp := v }
def State.withMin (s : State) (v : Word) : State := { s with minReg := v }
def State.withMax (s : State) (v : Word) : State := { s with maxReg := v }
def State.withDqCode (s : State) (v : Word) : State := { s with dqCode := v.extractLsb' 0 8 }
def State.withDqResult (s : State) (v : Word) : State := { s with dqResult := v }
def State.withMem (s : State) (m : Memory) : State := { s with mem := m }
/-- The operations still to be performed. -/
def State.withScript (s : State) (ops : List HostOp) : State := { s with host := { s.host with script := ops } }
/-- A read returns `v` to the host. -/
def State.withAnswer (s : State) (v : Word) : State :=
  { s with host := { s.host with answers := s.host.answers ++ [v] } }

/-! ### Registers -/

/-- `REG.F32_BASE`: the stored bits above the two hardwired zeros (10_state.md R25). -/
def State.f32Base (s : State) : Word := s.f32BaseHi ++ (0 : BitVec 2)

/-- The 32-bit content of a register as `rd` returns it (30_encoding.md R61). -/
def readReg (s : State) : Reg → Word
  | .cmd => 0
  | .status => s.status
  | .f32Base => s.f32Base
  | .f32Len => s.f32Len
  | .i8Base => s.i8Base
  | .i8Len => s.i8Len
  | .scale => s.scale
  | .zp => s.zp
  | .min => s.minReg
  | .max => s.maxReg
  | .dqCode => s.dqCode.signExtend 32
  | .dqResult => s.dqResult

/-- What `wr` does to a register other than `CMD` (30_encoding.md R62): `STATUS`, `MIN`, `MAX` and `DQ_RESULT`
ignore it. `CMD` has no storage; a write to it is a command, which `performOp` runs. -/
def writeReg (s : State) : Reg → Word → State
  | .cmd, _ => s
  | .status, _ => s
  | .f32Base, v => s.withF32Base v
  | .f32Len, v => s.withF32Len v
  | .i8Base, v => s.withI8Base v
  | .i8Len, v => s.withI8Len v
  | .scale, v => s.withScale v
  | .zp, v => s.withZp v
  | .min, _ => s
  | .max, _ => s
  | .dqCode, v => s.withDqCode v
  | .dqResult, _ => s

/-- Where a register stands in the host's own address map: `REG_BASE` plus its offset (00_scope.md R5, 10_state.md
R23; log 21). The host operations name registers by offset, so no step depends on it. -/
def State.regAddress (s : State) (r : Reg) : Nat := s.params.regBase + r.offset.toNat

/-! ### Memory accesses -/

/-- `MEM_SIZE` of this instance. -/
def State.memSize (s : State) : Nat := s.params.memSize

/-- `MemRead(addr, n)`, zero-extended to 32 bits; defined when `addr + n <= MEM_SIZE` (20_memory.md R42, R44). -/
def memRead (s : State) (addr : Word) (n : AccessWidth) : Except Fault Word :=
  if addr.toNat + n.bytes ≤ s.memSize then .ok (Memory.readLE s.mem addr.toNat n)
  else .error .outsideMemory

/-- `MemWrite(addr, n, v)`; defined when `addr + n <= MEM_SIZE` (20_memory.md R42, R45). Only the `n` low bytes
of `v` take part. -/
def memWrite (s : State) (addr : Word) (n : AccessWidth) (v : Word) : Except Fault State :=
  if addr.toNat + n.bytes ≤ s.memSize then .ok (s.withMem (Memory.writeLE s.mem addr.toNat v n.bytes))
  else .error .outsideMemory

/-! ### How a command ends -/

/-- `raise Kind` (60_exceptions.md R146): `STATUS <- (ERR = code(Kind), DONE = 1, NV = 0)`, nothing else. Nothing
is saved and control goes nowhere (log 13). -/
def raiseError (s : State) (k : ErrorKind) : State := s.withStatus (statusWord k.code true false)

/-- A command that ends without error: `STATUS <- (ERR = 0, DONE = 1, NV = nv)` (41_quantize.md R106,
42_dequantize.md R124, R128). -/
def completeCommand (s : State) (nv : Bool) : State := s.withStatus (statusWord 0 true nv)

/-! ### Reset -/

/-- The reset event (70_reset_and_hazards.md R160): every register to its value of 10_state.md R38. MEM is not
touched, the host goes on with its operations, the parameters stay (log 16). -/
def resetEvent (s : State) : State :=
  { State.reset with mem := s.mem, host := s.host, params := s.params }

end Sys2Proof.Machine
end

