-- ==== Sys2Proof/Machine/Operands.lean ====
section
/-! DEFINITION. The operand forms of the commands: typed element access to the two buffers (20_memory.md R43,
R46) and the register operands read as integers (10_state.md R30, R32). -/

namespace Sys2Proof.Machine

open Sys2Proof

/-- The address of element `i` of the F32 buffer: `(F32_BASE + 4*i) mod 2^32` (20_memory.md R43; log 10). -/
def f32Addr (s : State) (i : Nat) : Word := BitVec.ofNat 32 (s.f32Base.toNat + 4 * i)

/-- The address of element `i` of the I8 buffer: `(I8_BASE + i) mod 2^32` (20_memory.md R43; log 10). -/
def i8Addr (s : State) (i : Nat) : Word := BitVec.ofNat 32 (s.i8Base.toNat + i)

/-- `ReadF32(i)` (20_memory.md R46). -/
def readF32 (s : State) (i : Nat) : Except Fault F32 := memRead s (f32Addr s i) .w4

/-- `WriteF32(i, w)` (20_memory.md R46). -/
def writeF32 (s : State) (i : Nat) (w : F32) : Except Fault State := memWrite s (f32Addr s i) .w4 w

/-- `ReadI8(i)`: the byte, sign-extended to an integer (20_memory.md R46). -/
def readI8 (s : State) (i : Nat) : Except Fault Int :=
  match memRead s (i8Addr s i) .w1 with
  | .ok w => .ok (w.setWidth 8).toInt
  | .error f => .error f

/-- `WriteI8(i, c)`: the 8-bit two's-complement pattern of the code (20_memory.md R46). -/
def writeI8 (s : State) (i : Nat) (c : Int) : Except Fault State :=
  memWrite s (i8Addr s i) .w1 ((BitVec.ofInt 8 c).setWidth 32)

/-- The F32 word that element `i` of the F32 buffer holds (20_memory.md R43, R44): what `ReadF32(i)` returns
where it is defined. -/
def f32Elem (s : State) (i : Nat) : F32 := Memory.readLE s.mem (f32Addr s i).toNat .w4

/-- The code that element `i` of the I8 buffer holds (20_memory.md R43, R46): what `ReadI8(i)` returns where it
is defined. -/
def i8Elem (s : State) (i : Nat) : Int := (Memory.byte s.mem (i8Addr s i).toNat).toInt

/-- `toS_8(DQ_CODE[7:0])` (10_state.md R32). -/
def codeOperand (s : State) : Int := s.dqCode.toInt

/-- `toS_32(REG.ZP)` (10_state.md R30). -/
def zpOperand (s : State) : Int := s.zp.toInt

end Sys2Proof.Machine
end

