-- ==== Sys2Proof/Machine/Dequantize.lean ====
section
/-! DEFINITION. The dequantizer and the commands `DEQ` and `DEQB` (42_dequantize.md R120 to R131). -/

namespace Sys2Proof.Machine

open Sys2Proof

/-- `DQ(code, scale, zp)`: the difference is exact in `Z`, then converted, then multiplied (42_dequantize.md
R120, R121). -/
def dq (code : Int) (scale : F32) (zp : Int) : F32 := fmul (i2f (code - zp)) scale

/-- `DEQ` (42_dequantize.md R123, R124). -/
def execDeq (s : State) : Host.Outcome State Fault Refusal :=
  if validScale s.scale then
    .next (completeCommand (s.withDqResult (dq (codeOperand s) s.scale (zpOperand s))) false)
  else .next (raiseError s .invalidScale)

/-- The loop of `DEQB` from element `i` for `k` elements: read code `i`, then write element `i` (42_dequantize.md
R126, R127; overlapping buffers: log 9). -/
def deqLoop : Nat → Nat → State → Except Fault State
  | 0, _, s => .ok s
  | k + 1, i, s =>
    match readI8 s i with
    | .error f => .error f
    | .ok c =>
      match writeF32 s i (dq c s.scale (zpOperand s)) with
      | .error f => .error f
      | .ok s' => deqLoop k (i + 1) s'

/-- `DEQB` (42_dequantize.md R126, R128): `InvalidScale` before `LengthMismatch`, both before any memory access;
with no elements it succeeds. -/
def execDeqb (s : State) : Host.Outcome State Fault Refusal :=
  if validScale s.scale then
    if s.i8Len ≠ s.f32Len then .next (raiseError s .lengthMismatch)
    else
      match deqLoop s.i8Len.toNat 0 s with
      | .error f => .fault f
      | .ok s' => .next (completeCommand s' false)
  else .next (raiseError s .invalidScale)

end Sys2Proof.Machine
end

