-- ==== Sys2Proof/Machine/Calibrate.lean ====
section
/-! DEFINITION. The range-finder and the scale/zero-point calculator as pure functions
(40_range_calibration.md R80 to R91). -/

namespace Sys2Proof.Machine

open Sys2Proof

/-- One iteration of the scan: two strict tests, both applied to every element (40_range_calibration.md R81). -/
def rangeStep (acc : F32 × F32) (v : F32) : F32 × F32 :=
  (if flt v acc.1 then v else acc.1, if fgt v acc.2 then v else acc.2)

/-- `RANGE` over the elements `first :: rest`, in ascending index order (40_range_calibration.md R80, R81). It is
not defined for no elements, so it takes the first one apart. -/
def range (first : F32) (rest : List F32) : F32 × F32 := rest.foldl rangeStep (first, first)

/-- `scale0 := fdiv(fsub(max, min), 255.0)` (40_range_calibration.md R86). -/
def calibScale0 (mn mx : F32) : F32 := fdiv (fsub mx mn) fQspan

/-- `scale := if feq(scale0, 0.0) then 1.0 else scale0` (40_range_calibration.md R87; 90_conflicts.md C1). -/
def calibScale (mn mx : F32) : F32 :=
  if feq (calibScale0 mn mx) (fZero false) then fOne else calibScale0 mn mx

/-- `u := fsub(-128.0, fdiv(min, scale))` (40_range_calibration.md R88). -/
def calibU (mn mx : F32) : F32 := fsub fQmin (fdiv mn (calibScale mn mx))

/-- `CALIB(min, max)`: the triple `(scale, zp, nv)` (40_range_calibration.md R84, R89). -/
def calib (mn mx : F32) : F32 × Int × Bool :=
  (calibScale mn mx, (ftruncSat32 (calibU mn mx)).1, (ftruncSat32 (calibU mn mx)).2)

end Sys2Proof.Machine
end

