-- ==== Sys2Proof/Machine/Quantize.lean ====
section
/-! DEFINITION. The element quantizer and the command `QUANTIZE` (41_quantize.md R100 to R113). -/

namespace Sys2Proof.Machine

open Sys2Proof

/-- `QELEM(v, scale, zp)`: the pair `(code, nv)` (41_quantize.md R100, R101). The sum is exact in `Z`. -/
def qelem (tie : RoundTie) (v scale : F32) (zp : Int) : Int × Bool :=
  if fIsNaN (fdiv v scale) then (clamp8 (0 + zp), true)
  else if fIsInf (fdiv v scale) && !fSign (fdiv v scale) then (127, false)
  else if fIsInf (fdiv v scale) && fSign (fdiv v scale) then (-128, false)
  else (clamp8 (fround tie (fdiv v scale) + zp), false)

/-- Pass 1: elements `i .. i+k-1` of the F32 buffer, each read once in ascending order (41_quantize.md R104). -/
def readF32s (s : State) (i : Nat) : Nat → Except Fault (List F32)
  | 0 => .ok []
  | k + 1 =>
    match readF32 s i with
    | .error f => .error f
    | .ok v =>
      match readF32s s (i + 1) k with
      | .error f => .error f
      | .ok vs => .ok (v :: vs)

/-- Pass 2 from element `i` for `k` elements: read element `i` again, then write code `i` (41_quantize.md R103,
R104; overlapping buffers: log 9); `nv` collects the bits of the conversions. -/
def quantLoop (scale : F32) (zp : Int) : Nat → Nat → Bool → State → Except Fault (State × Bool)
  | 0, _, nv, s => .ok (s, nv)
  | k + 1, i, nv, s =>
    match readF32 s i with
    | .error f => .error f
    | .ok v =>
      match writeI8 s i (qelem s.params.roundTie v scale zp).1 with
      | .error f => .error f
      | .ok s' => quantLoop scale zp k (i + 1) (nv || (qelem s.params.roundTie v scale zp).2) s'

/-- The registers a successful `QUANTIZE` writes besides `STATUS` (41_quantize.md R106). -/
def storeCalibration (s : State) (mn mx scale : F32) (zp : Int) : State :=
  (((s.withMin mn).withMax mx).withScale scale).withZp (BitVec.ofInt 32 zp)

/-- Pass 2 and the register writes, given `(min, max)` and `(scale, zp, nv)` (41_quantize.md R103). -/
def quantizePass2 (s : State) (n : Nat) (r : F32 × F32) (c : F32 × Int × Bool) : Except Fault State :=
  match quantLoop c.1 c.2.1 n 0 c.2.2 s with
  | .error f => .error f
  | .ok (s', nv) => .ok (completeCommand (storeCalibration s' r.1 r.2 c.1 c.2.1) nv)

/-- Both passes of `QUANTIZE` over `n >= 1` elements (41_quantize.md R103, R104). -/
def quantizeBuffer (s : State) (n : Nat) : Except Fault State :=
  match readF32 s 0 with
  | .error f => .error f
  | .ok v =>
    match readF32s s 1 (n - 1) with
    | .error f => .error f
    | .ok vs => quantizePass2 s n (range v vs) (calib (range v vs).1 (range v vs).2)

/-- `QUANTIZE` (41_quantize.md R103, R107): `EmptyInput` before `LengthMismatch`, both before any memory access. -/
def execQuantize (s : State) : Host.Outcome State Fault Refusal :=
  if s.f32Len = 0 then .next (raiseError s .emptyInput)
  else if s.f32Len ≠ s.i8Len then .next (raiseError s .lengthMismatch)
  else
    match quantizeBuffer s s.f32Len.toNat with
    | .error f => .fault f
    | .ok s' => .next s'

end Sys2Proof.Machine
end

