-- ==== Sys2Proof/Machine/Dispatch.lean ====
section
/-! DEFINITION. One arm per command (30_encoding.md R68, R69). -/

namespace Sys2Proof.Machine

open Sys2Proof

def exec (i : Instr) (s : State) : Host.Outcome State Fault Refusal :=
  match i with
  | .quantize => Sys2Proof.Machine.execQuantize s
  | .deq => Sys2Proof.Machine.execDeq s
  | .deqb => Sys2Proof.Machine.execDeqb s

end Sys2Proof.Machine
end

