-- ==== Sys2Proof/Machine/HostOps.lean ====
section
/-! DEFINITION. The five host operations, the steps of the machine (30_encoding.md R60 to R65), and the issuing of
a command (R69). -/

namespace Sys2Proof.Machine

open Sys2Proof

/-- Executing a command word (30_encoding.md R69, R70): the decoded command, or `IllegalCommand`. -/
def executeCommand (v : Word) (s : State) : Host.Outcome State Fault Refusal :=
  match decode v with
  | .ok i => exec i s
  | .error _ => .next (raiseError s .illegalCommand)

/-- `rd off` (30_encoding.md R61): the content of the register goes to the host; an undefined offset is refused
(U11). -/
def hostRd (off : Word) (s : State) : Host.Outcome State Fault Refusal :=
  match Reg.ofOffset off with
  | some r => .next (s.withAnswer (readReg s r))
  | none => .refused (.undefinedRegister off)

/-- `wr off, v` (30_encoding.md R62): at `CMD` it executes the command `v`; an undefined offset is refused (U11). -/
def hostWr (off v : Word) (s : State) : Host.Outcome State Fault Refusal :=
  match Reg.ofOffset off with
  | some .cmd => executeCommand v s
  | some r => .next (writeReg s r v)
  | none => .refused (.undefinedRegister off)

/-- `ld n, addr` (30_encoding.md R63): the value goes to the host, zero-extended (log 14). -/
def hostLd (n : AccessWidth) (addr : Word) (s : State) : Host.Outcome State Fault Refusal :=
  match memRead s addr n with
  | .ok v => .next (s.withAnswer v)
  | .error f => .fault f

/-- `st n, addr, v` (30_encoding.md R64). -/
def hostSt (n : AccessWidth) (addr : Word) (v : BitVec n.bits) (s : State) : Host.Outcome State Fault Refusal :=
  match memWrite s addr n (v.setWidth 32) with
  | .ok s' => .next s'
  | .error f => .fault f

/-- A host operation (30_encoding.md R60). -/
def performOp (op : HostOp) (s : State) : Host.Outcome State Fault Refusal :=
  match op with
  | .rd off => hostRd off s
  | .wr off v => hostWr off v s
  | .ld n addr => hostLd n addr s
  | .st n addr v => hostSt n addr v s
  | .reset => .next (resetEvent s)

/-- One step: the next host operation in the order issued; between host operations nothing happens
(30_encoding.md R60; log 1, log 3). One host exists, and a command takes no time (log 19, log 20). -/
def stepHost (s : State) : Host.Outcome State Fault Refusal :=
  match s.host.script with
  | [] => .next s
  | op :: rest => performOp op (s.withScript rest)

end Sys2Proof.Machine
end

