-- ==== Sys2Proof/Machine/Step.lean ====
section
/-! DEFINITION. The step of the machine, and how a command word is placed where the next step takes it. -/

namespace Sys2Proof.Machine

open Sys2Proof

/-- One host operation as one atomic transition of the whole state (00_scope.md R17). -/
def step (s : State) : Host.Outcome State Fault Refusal := stepHost s

/-- The host issues the command word of a table row as its next operation: `wr CMD, v` (30_encoding.md R60; log 1). -/
def State.withFetchWord (s : State) (nbits w : Nat) : State :=
  s.withScript (.wr Reg.cmd.offset (tableWord nbits w) :: s.host.script)

end Sys2Proof.Machine
end

