-- ==== Sys2Proof/Safety.lean ====
section
/-! DEFINITION. The terms in which claims speak of legal states, of the host's contract and of safe runs
(10_state.md R24, 20_memory.md R40, 70_reset_and_hazards.md R165, R166). -/

namespace Sys2Proof.Machine

open Sys2Proof

/-- `F32_BASE + 4*F32_LEN <= MEM_SIZE`, the sum in `Z` (70_reset_and_hazards.md R166). -/
abbrev f32BufferInside (s : State) : Prop := s.f32Base.toNat + 4 * s.f32Len.toNat ≤ s.memSize

/-- `I8_BASE + I8_LEN <= MEM_SIZE`, the sum in `Z` (70_reset_and_hazards.md R166). -/
abbrev i8BufferInside (s : State) : Prop := s.i8Base.toNat + s.i8Len.toNat ≤ s.memSize

/-- The F32 buffer `[F32_BASE, F32_BASE + 4*F32_LEN)` and the I8 buffer `[I8_BASE, I8_BASE + I8_LEN)` share no
byte (70_reset_and_hazards.md R165). -/
abbrev buffersDisjoint (s : State) : Prop :=
  min (s.f32Base.toNat + 4 * s.f32Len.toNat) (s.i8Base.toNat + s.i8Len.toNat) ≤ max s.f32Base.toNat s.i8Base.toNat

/-- Every access of the first `n` elements of both buffers is inside MEM (20_memory.md R42 to R46). -/
abbrev accessesInside (s : State) (n : Nat) : Prop :=
  ∀ i < n, (f32Addr s i).toNat + 4 ≤ s.memSize ∧ (i8Addr s i).toNat + 1 ≤ s.memSize

/-- The values `STATUS` can take (10_state.md R24): reset; success without and with `NV`; the four errors. -/
def legalStatuses : List Word :=
  [0x00000000, 0x00000010, 0x00000110, 0x00000011, 0x00000012, 0x00000013, 0x00000014]

/-- A legal state: `STATUS` holds one of its values (its reserved bits are zero, an error excludes `NV`), MEM is
in its canonical form and lists no byte that does not exist. -/
abbrev Inv (s : State) : Prop :=
  s.status ∈ legalStatuses ∧ Memory.wf s.mem ∧ ∀ c ∈ s.mem, c.1 < s.memSize

/-- The bounds the host keeps when it issues the command word `v` (70_reset_and_hazards.md R166): `QUANTIZE` and
`DEQB` with lengths that pass the check find both buffers inside MEM. -/
abbrev commandInside (s : State) (v : Word) : Prop :=
  (v = 0x00000001 ∨ v = 0x00000003) → s.f32Len = s.i8Len → f32BufferInside s ∧ i8BufferInside s

/-- What the host keeps when it issues an operation: register accesses at defined offsets (10_state.md R23),
memory accesses inside MEM (20_memory.md R42), commands within their bounds (70_reset_and_hazards.md R166). -/
def withinContract (s : State) : HostOp → Prop
  | .rd off => definedOffset off = true
  | .wr off v => definedOffset off = true ∧ (off = Reg.cmd.offset → commandInside s v)
  | .ld n addr => addr.toNat + n.bytes ≤ s.memSize
  | .st n addr _ => addr.toNat + n.bytes ≤ s.memSize
  | .reset => True

/-- The next `k` steps stop at no fault and no refusal. -/
def safeRun (k : Nat) (s : State) : Prop := ∃ t, Sys2Proof.core.run k s = .next t

end Sys2Proof.Machine
end

