-- ==== Sys2Proof/Certificates/Slice0/Obligations.lean ====
section
/-! DEFINITION. The statements about the machine that the provers settle: one `def Obligations.<Name> : Prop`
each, formalising the rules its docstring names. -/

open Sys2Proof Sys2Proof.Machine

/-! ### Encoding -/

/-- The three words of 30_encoding.md R68, written out, decode to their commands. -/
def Obligations.TableWordsDecodeToTheirCommands : Prop :=
  decode 0b00000000000000000000000000000001 = .ok .quantize ∧
  decode 0b00000000000000000000000000000010 = .ok .deq ∧
  decode 0b00000000000000000000000000000011 = .ok .deqb ∧
  decodeTableWord 32 1 = some .quantize ∧ decodeTableWord 32 2 = some .deq ∧ decodeTableWord 32 3 = some .deqb

/-- Decoding an encoded command gives it back, and every word that decodes is the encoding of what it decodes to
(30_encoding.md R67 to R69). -/
def Obligations.DecodeAndEncodeAgree : Prop :=
  (∀ i : Instr, i.wellFormed = true → decode (encode i) = .ok i) ∧
  ∀ (v : Word) (i : Instr), decode v = .ok i → i.wellFormed = true ∧ encode i = v

/-- The register map and its decoding agree, and an offset names a register exactly when it is below 0x30 and a
multiple of 4 (10_state.md R23). -/
def Obligations.RegisterOffsetsDecodeAndEncodeAgree : Prop :=
  (∀ r : Reg, Reg.ofOffset r.offset = some r) ∧
  (∀ (off : Word) (r : Reg), Reg.ofOffset off = some r → r.offset = off) ∧
  ∀ off : Word, (Reg.ofOffset off).isSome = true ↔ off.toNat < 0x30 ∧ off.toNat % 4 = 0

/-! ### Steps and host operations -/

/-- When the next host operation writes to `CMD` a word that decodes to a well-formed command, the step is that
command's `exec`, the operation taken off the script; and so for a word placed by `withFetchWord`. The script is
the model's way to hold the host's operations (log 1). -/
def Obligations.StepRunsTheDecodedCommand : Prop :=
  (∀ (s : State) (v : Word) (rest : List HostOp) (i : Instr),
    s.host.script = .wr Reg.cmd.offset v :: rest → decode v = .ok i → i.wellFormed = true →
    step s = exec i (s.withScript rest)) ∧
  ∀ (s : State) (nbits w : Nat) (i : Instr), decodeTableWord nbits w = some i →
    step (s.withFetchWord nbits w) = exec i s

/-- 30_encoding.md R69: which command a word written to `CMD` selects, and that `STATUS` is rewritten in every
case (what it held before has no influence on the step's outcome). -/
def Obligations.CommandWordSelectsItsOperation : Prop :=
  ∀ (s : State) (v : Word) (rest : List HostOp), s.host.script = .wr 0x00 v :: rest →
    step s =
      (if v.extractLsb' 8 24 ≠ 0 ∨ (v.extractLsb' 0 8 ≠ 0x01 ∧ v.extractLsb' 0 8 ≠ 0x02 ∧ v.extractLsb' 0 8 ≠ 0x03) then
        .next (raiseError (s.withScript rest) .illegalCommand)
      else if v.extractLsb' 0 8 = 0x01 then exec .quantize (s.withScript rest)
      else if v.extractLsb' 0 8 = 0x02 then exec .deq (s.withScript rest)
      else exec .deqb (s.withScript rest)) ∧
    ∀ x : Word, step (s.withStatus x) = step s

/-- 30_encoding.md R70: every other word is illegal, changes `STATUS` to `ERR = 4, DONE = 1, NV = 0` and nothing
else. -/
def Obligations.IllegalCommandChangesOnlyStatus : Prop :=
  ∀ (s : State) (v : Word) (rest : List HostOp), s.host.script = .wr 0x00 v :: rest →
    v ≠ 0x00000001 → v ≠ 0x00000002 → v ≠ 0x00000003 →
    step s = .next ((s.withScript rest).withStatus 0x00000014)

/-- Between host operations nothing happens (30_encoding.md R60). That a step with nothing to perform is a step at
all is the model's choice (log 3). -/
def Obligations.NothingHappensBetweenHostOperations : Prop :=
  ∀ s : State, s.host.script = [] → step s = .next s

/-- 30_encoding.md R61: `rd` of a defined offset returns the content of the register and changes nothing. The list
of answers is the model's way to hold what a read returns (log 2). -/
def Obligations.RegisterReadAnswersItsContent : Prop :=
  ∀ (s : State) (r : Reg) (rest : List HostOp), s.host.script = .rd r.offset :: rest →
    step s = .next ((s.withScript rest).withAnswer
      (match r with
        | .cmd => 0x00000000
        | .status => s.status
        | .f32Base => s.f32BaseHi ++ (0 : BitVec 2)
        | .f32Len => s.f32Len
        | .i8Base => s.i8Base
        | .i8Len => s.i8Len
        | .scale => s.scale
        | .zp => s.zp
        | .min => s.minReg
        | .max => s.maxReg
        | .dqCode => s.dqCode.signExtend 32
        | .dqResult => s.dqResult))

/-- 30_encoding.md R62: what `wr` does at every defined offset. A write other than to `CMD` changes only the named
register. -/
def Obligations.RegisterWriteChangesOnlyItsRegister : Prop :=
  ∀ (s : State) (r : Reg) (v : Word) (rest : List HostOp), s.host.script = .wr r.offset v :: rest →
    step s =
      (match r with
        | .cmd => executeCommand v (s.withScript rest)
        | .status => .next (s.withScript rest)
        | .f32Base => .next { s.withScript rest with f32BaseHi := v.extractLsb' 2 30 }
        | .f32Len => .next { s.withScript rest with f32Len := v }
        | .i8Base => .next { s.withScript rest with i8Base := v }
        | .i8Len => .next { s.withScript rest with i8Len := v }
        | .scale => .next { s.withScript rest with scale := v }
        | .zp => .next { s.withScript rest with zp := v }
        | .min => .next (s.withScript rest)
        | .max => .next (s.withScript rest)
        | .dqCode => .next { s.withScript rest with dqCode := v.extractLsb' 0 8 }
        | .dqResult => .next (s.withScript rest))

/-- After `wr F32_BASE, v`, `rd F32_BASE` returns `v` with bits [1:0] zero (10_state.md R25); after `wr DQ_CODE, v`,
`rd DQ_CODE` returns `v[7:0]` sign-extended (R32). -/
def Obligations.HardwiredAndNarrowRegistersReadBack : Prop :=
  ∀ (s : State) (v : Word) (rest : List HostOp),
    (s.host.script = .wr 0x08 v :: .rd 0x08 :: rest →
      ∃ t w, Sys2Proof.core.run 2 s = .next t ∧ t.host.answers = s.host.answers ++ [w] ∧
        w.toNat = v.toNat / 4 * 4) ∧
    (s.host.script = .wr 0x28 v :: .rd 0x28 :: rest →
      ∃ t w, Sys2Proof.core.run 2 s = .next t ∧ t.host.answers = s.host.answers ++ [w] ∧
        w.toInt = (v.extractLsb' 0 8).toInt)

/-- 30_encoding.md R63 and 20_memory.md R44: `ld` returns the little-endian value of its bytes and changes
nothing. -/
def Obligations.LoadAnswersLittleEndianValue : Prop :=
  ∀ (s : State) (n : AccessWidth) (addr : Word) (rest : List HostOp), s.host.script = .ld n addr :: rest →
    addr.toNat + n.bytes ≤ s.memSize →
    ∃ w : Word, step s = .next ((s.withScript rest).withAnswer w) ∧
      w.toNat =
        (match n with
          | .w1 => (Memory.byte s.mem addr.toNat).toNat
          | .w2 => (Memory.byte s.mem addr.toNat).toNat + 2 ^ 8 * (Memory.byte s.mem (addr.toNat + 1)).toNat
          | .w4 => (Memory.byte s.mem addr.toNat).toNat + 2 ^ 8 * (Memory.byte s.mem (addr.toNat + 1)).toNat +
              2 ^ 16 * (Memory.byte s.mem (addr.toNat + 2)).toNat + 2 ^ 24 * (Memory.byte s.mem (addr.toNat + 3)).toNat)

/-- 30_encoding.md R64 and 20_memory.md R45: `st` writes byte `v[8k+7:8k]` at `addr + k` for `k < n` and changes
nothing else. -/
def Obligations.StoreWritesExactlyItsBytes : Prop :=
  ∀ (s : State) (n : AccessWidth) (addr : Word) (v : BitVec n.bits) (rest : List HostOp),
    s.host.script = .st n addr v :: rest → addr.toNat + n.bytes ≤ s.memSize →
    ∃ t, step s = .next t ∧ t = { s.withScript rest with mem := t.mem } ∧
      (∀ k < n.bytes, Memory.byte t.mem (addr.toNat + k) = v.extractLsb' (8 * k) 8) ∧
      ∀ a : Nat, (a < addr.toNat ∨ addr.toNat + n.bytes ≤ a) → Memory.byte t.mem a = Memory.byte s.mem a

/-- A load after a store of the same width at the same address returns the value stored (20_memory.md R44, R45). -/
def Obligations.StoreThenLoadReturnsTheValue : Prop :=
  ∀ (s : State) (n : AccessWidth) (addr : Word) (v : BitVec n.bits) (rest : List HostOp),
    s.host.script = .st n addr v :: .ld n addr :: rest → addr.toNat + n.bytes ≤ s.memSize →
    ∃ t w, Sys2Proof.core.run 2 s = .next t ∧ t.host.answers = s.host.answers ++ [w] ∧ w.toNat = v.toNat

/-- A host access that reaches outside MEM has no step (20_memory.md R42): the model stops with its fault
`outsideMemory` (log 11). -/
def Obligations.HostAccessOutsideMemoryStops : Prop :=
  ∀ (s : State) (n : AccessWidth) (addr : Word) (v : BitVec n.bits) (rest : List HostOp),
    s.memSize < addr.toNat + n.bytes →
    (s.host.script = .ld n addr :: rest → step s = .fault .outsideMemory) ∧
    (s.host.script = .st n addr v :: rest → step s = .fault .outsideMemory)

/-- A command one of whose element accesses reaches outside MEM has no step (20_memory.md R42): the model stops
with its fault `outsideMemory` (log 11). -/
def Obligations.EngineAccessOutsideMemoryStops : Prop :=
  ∀ (s : State) (i : Nat), s.f32Len = s.i8Len → i < s.f32Len.toNat →
    (s.memSize < (f32Addr s i).toNat + 4 ∨ s.memSize < (i8Addr s i).toNat + 1) →
    exec .quantize s = .fault .outsideMemory ∧
    (validScale s.scale = true → exec .deqb s = .fault .outsideMemory)

/-- A register access at an offset that 10_state.md R23 does not define (U11) is refused (log 12). -/
def Obligations.UndefinedRegisterOffsetIsRefused : Prop :=
  ∀ (s : State) (off v : Word) (rest : List HostOp), (0x30 ≤ off.toNat ∨ off.toNat % 4 ≠ 0) →
    (s.host.script = .rd off :: rest → step s = .refused (.undefinedRegister off)) ∧
    (s.host.script = .wr off v :: rest → step s = .refused (.undefinedRegister off))

/-- 30_encoding.md R75: running the expansion of `fillf32` stores each word at its place and nothing else; the
expansions of the other pseudo-instructions. -/
def Obligations.PseudoInstructionsExpandAsListed : Prop :=
  Pseudo.quantize.expand = [.wr 0x00 0x00000001] ∧ Pseudo.deq.expand = [.wr 0x00 0x00000002] ∧
  Pseudo.deqb.expand = [.wr 0x00 0x00000003] ∧
  (∀ base len : Word, (Pseudo.setf32 base len).expand = [.wr 0x08 base, .wr 0x0C len]) ∧
  (∀ base len : Word, (Pseudo.seti8 base len).expand = [.wr 0x10 base, .wr 0x14 len]) ∧
  ∀ (s : State) (addr : Word) (vs : List F32), addr.toNat + 4 * vs.length ≤ s.memSize →
    ∃ t, Sys2Proof.core.run vs.length (s.withScript (Pseudo.fillf32 addr vs).expand) = .next t ∧
      t = { s.withScript [] with mem := t.mem } ∧
      (∀ (i : Nat) (h : i < vs.length), Memory.readLE t.mem (addr.toNat + 4 * i) .w4 = vs[i]) ∧
      ∀ a : Nat, (a < addr.toNat ∨ addr.toNat + 4 * vs.length ≤ a) → Memory.byte t.mem a = Memory.byte s.mem a

/-! ### Reset -/

/-- 70_reset_and_hazards.md R160: after the host operation `reset`, which can stand before any other, every register
reads 0 and MEM is unchanged; power-on is a reset. That the operations still to come, the answers given and the
parameters stay is the model's reading (log 16; 10_state.md R20). -/
def Obligations.ResetClearsEveryRegisterAndKeepsMemory : Prop :=
  (∀ (s : State) (rest : List HostOp), s.host.script = .reset :: rest →
    ∃ t, step s = .next t ∧ (∀ r : Reg, readReg t r = 0) ∧ t.mem = s.mem ∧
      t.host = { s.host with script := rest } ∧ t.params = s.params) ∧
  ∀ r : Reg, readReg State.reset r = 0

/-- 70_reset_and_hazards.md R163: straight after reset `QUANTIZE` raises `EmptyInput`, `DEQ` and `DEQB` raise
`InvalidScale`. -/
def Obligations.CommandsStraightAfterResetReportErrors : Prop :=
  exec .quantize State.reset = .next (State.reset.withStatus 0x00000011) ∧
  exec .deq State.reset = .next (State.reset.withStatus 0x00000012) ∧
  exec .deqb State.reset = .next (State.reset.withStatus 0x00000012)

/-! ### Errors -/

/-- 41_quantize.md R107: when `QUANTIZE` reports `EmptyInput` and when `LengthMismatch`; only `STATUS` changes. -/
def Obligations.QuantizeReportsEmptyInputAndLengthMismatch : Prop :=
  ∀ s : State,
    (s.f32Len = 0 → exec .quantize s = .next (s.withStatus 0x00000011)) ∧
    (s.f32Len ≠ 0 → s.f32Len ≠ s.i8Len → exec .quantize s = .next (s.withStatus 0x00000013))

/-- 42_dequantize.md R123 and R124: `DEQ` with a valid scale writes `DQ_RESULT` and `STATUS`; with an invalid one it
reports `InvalidScale` and changes `STATUS` only. It answers a next state from every state. -/
def Obligations.DeqWritesItsResultOrReportsInvalidScale : Prop :=
  ∀ s : State,
    (validScale s.scale = true → exec .deq s =
      .next { s with
        dqResult := fmul (i2f (s.dqCode.toInt - s.zp.toInt)) s.scale
        status := 0x00000010 }) ∧
    (validScale s.scale = false → exec .deq s = .next { s with status := 0x00000012 })

/-- 42_dequantize.md R128: the outcomes of `DEQB` in `STATUS`; on an error nothing else changes; with no elements and
a valid scale it succeeds and touches no memory; `EmptyInput` is never raised. -/
def Obligations.DeqbReportsItsOutcomeInStatus : Prop :=
  ∀ s : State,
    (validScale s.scale = false → exec .deqb s = .next (s.withStatus 0x00000012)) ∧
    (validScale s.scale = true → s.i8Len ≠ s.f32Len → exec .deqb s = .next (s.withStatus 0x00000013)) ∧
    (validScale s.scale = true → s.i8Len = 0 → s.f32Len = 0 → exec .deqb s = .next (s.withStatus 0x00000010)) ∧
    (validScale s.scale = true → s.i8Len = s.f32Len → ∀ t, exec .deqb s = .next t → t.status = 0x00000010) ∧
    ∀ t, exec .deqb s = .next t → statusErr t.status ≠ 1

/-- 60_exceptions.md R144: which command can report what in `STATUS.ERR`. -/
def Obligations.EachCommandReportsOnlyItsErrors : Prop :=
  ∀ s t : State,
    (exec .quantize s = .next t → statusErr t.status ∈ [(0 : BitVec 4), 1, 3]) ∧
    (exec .deq s = .next t → statusErr t.status ∈ [(0 : BitVec 4), 2]) ∧
    (exec .deqb s = .next t → statusErr t.status ∈ [(0 : BitVec 4), 2, 3])

/-- 60_exceptions.md R146: a command that ends in an error has had no effect but on `STATUS`, which holds the error
with `DONE = 1` and `NV = 0`; and what raising each kind writes. -/
def Obligations.FailedCommandChangesOnlyStatus : Prop :=
  (∀ s : State, raiseError s .emptyInput = s.withStatus 0x00000011 ∧ raiseError s .invalidScale = s.withStatus 0x00000012 ∧
    raiseError s .lengthMismatch = s.withStatus 0x00000013 ∧ raiseError s .illegalCommand = s.withStatus 0x00000014) ∧
  ∀ (i : Instr) (s t : State), exec i s = .next t → statusErr t.status ≠ 0 →
    t = s.withStatus t.status ∧ statusDone t.status = true ∧ statusNv t.status = false

/-- 60_exceptions.md R147: when several causes hold, the lowest code of those the command can raise is reported; an
illegal word reports `IllegalCommand` whatever else holds. -/
def Obligations.LowestErrorCodeIsReported : Prop :=
  ∀ (s t : State) (rest : List HostOp) (v : Word),
    (exec .quantize s = .next t → s.f32Len = 0 → s.f32Len ≠ s.i8Len → statusErr t.status = 1) ∧
    (exec .deqb s = .next t → validScale s.scale = false → s.i8Len ≠ s.f32Len → statusErr t.status = 2) ∧
    (s.host.script = .wr 0x00 v :: rest → 3 < v.toNat ∨ v = 0 → step s = .next t → statusErr t.status = 4)

/-! ### The real-number primitives -/

/-- 42_dequantize.md R122: the valid scales are the words `0x00000001 .. 0x7F7FFFFF`. -/
def Obligations.ValidScalesAreThePositiveFiniteWords : Prop :=
  ∀ w : F32, validScale w = true ↔ 0x00000001 ≤ w.toNat ∧ w.toNat ≤ 0x7F7FFFFF

/-- 00_scope.md R10: `rnd32` of the exact value `num / den` units of `2^-149` with sign `neg` is an infinity exactly
from `(2^24 - 1/2) * 2^104` on; below, it is finite, no finite word is nearer to the exact value, and on a tie the
fraction is even. -/
def Obligations.RoundingGivesTheNearestWordTiesToEven : Prop :=
  ∀ (neg : Bool) (num den : Nat), 0 < den →
    (den * ((2 ^ 25 - 1) * 2 ^ 252) ≤ num → rnd32 neg num den = fInf neg) ∧
    (num < den * ((2 ^ 25 - 1) * 2 ^ 252) →
      fFinite (rnd32 neg num den) = true ∧ fSign (rnd32 neg num den) = neg ∧
      ∀ w : F32, fFinite w = true →
        ((if neg then -(num : Int) else num) - den * fUnits (rnd32 neg num den)).natAbs ≤
            ((if neg then -(num : Int) else num) - den * fUnits w).natAbs ∧
        (((if neg then -(num : Int) else num) - den * fUnits (rnd32 neg num den)).natAbs =
            ((if neg then -(num : Int) else num) - den * fUnits w).natAbs →
          fUnits w ≠ fUnits (rnd32 neg num den) → fFrac (rnd32 neg num den) % 2 = 0))

/-- 00_scope.md R11: `fsub`, `fmul` and `fdiv` on every pair of words: NaN operands, infinities, zeros and the rounded
exact result. Exact values are in units of `2^-149`. Of a zero divided by a non-zero number the rule gives no sign, so none
is stated (log 22). -/
def Obligations.ArithmeticFollowsItsCases : Prop :=
  ∀ a b : F32,
    (fIsNaN a = true ∨ fIsNaN b = true → fsub a b = 0x7FC00000 ∧ fmul a b = 0x7FC00000 ∧ fdiv a b = 0x7FC00000) ∧
    (fIsNaN a = false → fIsNaN b = false →
      (fIsInf a = true → fIsInf b = true →
        fsub a b = (if fSign a = fSign b then 0x7FC00000 else a) ∧ fdiv a b = 0x7FC00000 ∧
        fmul a b = fInf (fSign a ^^ fSign b)) ∧
      (fIsInf a = true → fIsInf b = false →
        fsub a b = a ∧ fdiv a b = fInf (fSign a ^^ fSign b) ∧
        fmul a b = (if fIsZero b then 0x7FC00000 else fInf (fSign a ^^ fSign b))) ∧
      (fIsInf a = false → fIsInf b = true →
        fsub a b = fInf (!fSign b) ∧ fdiv a b = fZero (fSign a ^^ fSign b) ∧
        fmul a b = (if fIsZero a then 0x7FC00000 else fInf (fSign a ^^ fSign b))) ∧
      (fIsInf a = false → fIsInf b = false →
        fsub a b = (if fUnits a = fUnits b then (if a = 0x80000000 ∧ b = 0x00000000 then 0x80000000 else 0x00000000)
          else rnd32 (decide (fUnits a < fUnits b)) (fUnits a - fUnits b).natAbs 1) ∧
        fmul a b = rnd32 (fSign a ^^ fSign b) (fMag a * fMag b) (2 ^ 149) ∧
        (fIsZero a = false → fIsZero b = false →
          fdiv a b = rnd32 (fSign a ^^ fSign b) (fMag a * 2 ^ 149) (fMag b)) ∧
        (fIsZero a = true → fIsZero b = false → fIsZero (fdiv a b) = true) ∧
        (fIsZero b = true → fdiv a b = (if fIsZero a then 0x7FC00000 else fInf (fSign a ^^ fSign b)))))

/-- 00_scope.md R12: comparisons are by value, `+0` equals `-0`, every comparison with a NaN is false, and the
infinities lie beyond every finite value. -/
def Obligations.ComparisonsAreByValue : Prop :=
  (∀ a b : F32, fIsNaN a = true ∨ fIsNaN b = true → flt a b = false ∧ fgt a b = false ∧ feq a b = false) ∧
  (∀ a b : F32, fFinite a = true → fFinite b = true →
    (flt a b = true ↔ fUnits a < fUnits b) ∧ (fgt a b = true ↔ fUnits b < fUnits a) ∧
    (feq a b = true ↔ fUnits a = fUnits b)) ∧
  (∀ a : F32, fFinite a = true →
    flt a 0x7F800000 = true ∧ fgt a 0x7F800000 = false ∧ feq a 0x7F800000 = false ∧
    flt a 0xFF800000 = false ∧ fgt a 0xFF800000 = true ∧ feq a 0xFF800000 = false ∧
    flt 0x7F800000 a = false ∧ fgt 0x7F800000 a = true ∧ feq 0x7F800000 a = false ∧
    flt 0xFF800000 a = true ∧ fgt 0xFF800000 a = false ∧ feq 0xFF800000 a = false) ∧
  feq 0x7F800000 0x7F800000 = true ∧ feq 0xFF800000 0xFF800000 = true ∧
  flt 0xFF800000 0x7F800000 = true ∧ fgt 0x7F800000 0xFF800000 = true ∧
  feq 0x00000000 0x80000000 = true ∧ flt 0x80000000 0x00000000 = false ∧ fgt 0x00000000 0x80000000 = false

/-- 00_scope.md R13: `i2f` rounds, gives `+0` for 0, is exact up to `2^24`, and gives the constants of the algorithm. -/
def Obligations.IntegerConversionIsExactUpTo24Bits : Prop :=
  (∀ z : Int, i2f z = rnd32 (decide (z < 0)) (z.natAbs * 2 ^ 149) 1) ∧ i2f 0 = 0x00000000 ∧
  (∀ z : Int, z.natAbs ≤ 2 ^ 24 → fFinite (i2f z) = true ∧ fUnits (i2f z) = z * 2 ^ 149) ∧
  i2f (-128) = 0xC3000000 ∧ i2f 255 = 0x437F0000

/-- 00_scope.md R14: `ftrunc_sat32` of a NaN, of the infinities, and of a finite value whose fraction discarded
toward zero gives the integer `T`. -/
def Obligations.TruncationGoesTowardZeroAndSaturates : Prop :=
  (∀ x : F32, fIsNaN x = true → ftruncSat32 x = (0, true)) ∧
  ftruncSat32 0x7F800000 = (2 ^ 31 - 1, true) ∧ ftruncSat32 0xFF800000 = (-2 ^ 31, true) ∧
  ∀ (x : F32) (T : Int), fFinite x = true →
    (0 ≤ fUnits x → T * 2 ^ 149 ≤ fUnits x ∧ fUnits x < (T + 1) * 2 ^ 149) →
    (fUnits x < 0 → (T - 1) * 2 ^ 149 < fUnits x ∧ fUnits x ≤ T * 2 ^ 149) →
    ftruncSat32 x =
      (if 2 ^ 31 - 1 < T then (2 ^ 31 - 1, true) else if T < -2 ^ 31 then (-2 ^ 31, true) else (T, false))

/-- 00_scope.md R15: `fround` of a finite value is the nearest integer; half-way it is the one farther from zero
(`away`) or the even one (`even`); a value of magnitude `2^23` or more is returned unchanged. -/
def Obligations.RoundingToIntegerIsNearestWithTieRule : Prop :=
  ∀ (tie : RoundTie) (x : F32), fFinite x = true →
    (2 * (fround tie x * 2 ^ 149 - fUnits x)).natAbs ≤ 2 ^ 149 ∧
    ((2 * (fround tie x * 2 ^ 149 - fUnits x)).natAbs = 2 ^ 149 →
      (tie = .away → (fUnits x).natAbs < (fround tie x).natAbs * 2 ^ 149) ∧
      (tie = .even → fround tie x % 2 = 0)) ∧
    (2 ^ 23 * 2 ^ 149 ≤ (fUnits x).natAbs → fround tie x * 2 ^ 149 = fUnits x) ∧
    fround tie 0x00000000 = 0 ∧ fround tie 0x80000000 = 0

/-- 00_scope.md R16: `clamp8` saturates at -128 and 127 and keeps every other integer. -/
def Obligations.ClampSaturatesAtBothEnds : Prop :=
  ∀ z : Int, (z < -128 → clamp8 z = -128) ∧ (127 < z → clamp8 z = 127) ∧ (-128 ≤ z → z ≤ 127 → clamp8 z = z)

/-! ### The function units -/

/-- 40_range_calibration.md R82 and R83: where element 0 is no NaN, infinite elements included, `RANGE` gives at each
end a word that is no NaN and the first of the elements equal to it; no element lies outside the two ends (a NaN
compares with nothing); the ends are equal exactly when all elements that are no NaN are. Over finite elements the same
in exact values. -/
def Obligations.RangeGivesTheMinimumAndMaximum : Prop :=
  ∀ (v : F32) (vs : List F32),
    (fIsNaN v = false →
      fIsNaN (range v vs).1 = false ∧ fIsNaN (range v vs).2 = false ∧
      (∃ pre post, v :: vs = pre ++ (range v vs).1 :: post ∧ ∀ w ∈ pre, feq w (range v vs).1 = false) ∧
      (∃ pre post, v :: vs = pre ++ (range v vs).2 :: post ∧ ∀ w ∈ pre, feq w (range v vs).2 = false) ∧
      (∀ w ∈ v :: vs, flt w (range v vs).1 = false ∧ fgt w (range v vs).2 = false) ∧
      fgt (range v vs).1 (range v vs).2 = false ∧
      (feq (range v vs).1 (range v vs).2 = true ↔
        ∀ x ∈ v :: vs, ∀ y ∈ v :: vs, fIsNaN x = false → fIsNaN y = false → feq x y = true)) ∧
    ((∀ w ∈ v :: vs, fFinite w = true) →
      (range v vs).1 ∈ v :: vs ∧ (range v vs).2 ∈ v :: vs ∧
      (∀ w ∈ v :: vs, fUnits (range v vs).1 ≤ fUnits w ∧ fUnits w ≤ fUnits (range v vs).2) ∧
      fUnits (range v vs).1 ≤ fUnits (range v vs).2 ∧
      (fUnits (range v vs).1 = fUnits (range v vs).2 ↔ ∀ x ∈ v :: vs, ∀ y ∈ v :: vs, fUnits x = fUnits y))

/-- 40_range_calibration.md R82: the first of equal elements is kept; a NaN in element 0 stays to the end; a NaN
elsewhere is never selected. -/
def Obligations.RangeCornerCases : Prop :=
  ∀ (v : F32) (vs : List F32),
    range v [] = (v, v) ∧
    (fIsNaN v = false → (∀ w ∈ vs, feq w v = true) → range v vs = (v, v)) ∧
    (fIsNaN v = true → range v vs = (v, v)) ∧
    (fIsNaN v = false → fIsNaN (range v vs).1 = false ∧ fIsNaN (range v vs).2 = false ∧
      (range v vs).1 ∈ v :: vs ∧ (range v vs).2 ∈ v :: vs)

/-- 40_range_calibration.md R91: for finite `min <= max` the scale is no NaN, no zero and not negative; it is an
infinity only when the difference overflows; it is exactly `1.0` whenever `scale0` is zero. -/
def Obligations.ScaleOfFiniteRangeIsPositive : Prop :=
  ∀ mn mx : F32, fFinite mn = true → fFinite mx = true → fUnits mn ≤ fUnits mx →
    fIsNaN (calib mn mx).1 = false ∧ fIsZero (calib mn mx).1 = false ∧ fSign (calib mn mx).1 = false ∧
    (fIsInf (calib mn mx).1 = true → fIsInf (fsub mx mn) = true) ∧
    (feq (fdiv (fsub mx mn) 0x437F0000) 0x00000000 = true → (calib mn mx).1 = 0x3F800000)

/-- 40_range_calibration.md R90 item 1: a constant buffer has scale exactly `1.0`, and its zero-point is the truncated
`-128.0 - min`. -/
def Obligations.ConstantRangeHasScaleOne : Prop :=
  ∀ v : F32, fFinite v = true →
    (calib v v).1 = 0x3F800000 ∧ ((calib v v).2.1, (calib v v).2.2) = ftruncSat32 (fsub 0xC3000000 v)

/-- 40_range_calibration.md R87: for a non-negative finite range the quotient compares equal to zero exactly for the
range words `0x00000000` to `0x0000007F`; and for finite `min <= max` the scale that `CALIB` gives is `1.0` exactly
where the difference is one of these words (or `-0`, which two zeros can give), and the quotient everywhere else. -/
def Obligations.ScaleFallbackFiresExactlyOnUnderflow : Prop :=
  (∀ r : F32, fFinite r = true → fSign r = false →
    (feq (fdiv r 0x437F0000) 0x00000000 = true ↔ r.toNat ≤ 0x7F)) ∧
  ∀ mn mx : F32, fFinite mn = true → fFinite mx = true → fUnits mn ≤ fUnits mx →
    (calib mn mx).1 =
      (if (fsub mx mn).toNat ≤ 0x7F ∨ fsub mx mn = 0x80000000 then 0x3F800000
      else fdiv (fsub mx mn) 0x437F0000)

/-- 40_range_calibration.md R86, R88 and R89: `CALIB` on every pair of words, step by step, and the rule's worked
example. -/
def Obligations.CalibrationFollowsItsFormula : Prop :=
  (∀ mn mx : F32,
    (feq (fdiv (fsub mx mn) 0x437F0000) 0x00000000 = true → (calib mn mx).1 = 0x3F800000) ∧
    (feq (fdiv (fsub mx mn) 0x437F0000) 0x00000000 = false → (calib mn mx).1 = fdiv (fsub mx mn) 0x437F0000) ∧
    ((calib mn mx).2.1, (calib mn mx).2.2) = ftruncSat32 (fsub 0xC3000000 (fdiv mn (calib mn mx).1))) ∧
  fsub 0x41EC0000 0x41CC0000 = 0x40800000 ∧ fdiv 0x40800000 0x437F0000 = 0x3C808081 ∧
  fdiv 0x41CC0000 0x3C808081 = 0x44CB33FF ∧ fsub 0xC3000000 0x44CB33FF = 0xC4DB33FF ∧
  calib 0x41CC0000 0x41EC0000 = (0x3C808081, -1753, false)

/-- 41_quantize.md R101: the four branches of `QELEM`, and that every code is in `[-128, 127]`. -/
def Obligations.ElementQuantizerFollowsItsBranches : Prop :=
  ∀ (tie : RoundTie) (v scale : F32) (zp : Int),
    (fIsNaN (fdiv v scale) = true → qelem tie v scale zp = (clamp8 (0 + zp), true)) ∧
    (fdiv v scale = 0x7F800000 → qelem tie v scale zp = (127, false)) ∧
    (fdiv v scale = 0xFF800000 → qelem tie v scale zp = (-128, false)) ∧
    (fFinite (fdiv v scale) = true → qelem tie v scale zp = (clamp8 (fround tie (fdiv v scale) + zp), false)) ∧
    -128 ≤ (qelem tie v scale zp).1 ∧ (qelem tie v scale zp).1 ≤ 127

/-- 41_quantize.md R102 items 4 and 5: a zero element under a valid scale, and a finite element under an infinite
scale, give the clamped zero-point without `nv`. -/
def Obligations.ZeroQuotientGivesTheClampedZeroPoint : Prop :=
  ∀ (tie : RoundTie) (v scale : F32) (zp : Int),
    (fIsZero v = true → validScale scale = true → qelem tie v scale zp = (clamp8 zp, false)) ∧
    (fFinite v = true → fIsInf scale = true → qelem tie v scale zp = (clamp8 zp, false))

/-- 41_quantize.md R112: a datapath that saturates the rounded quotient to `n >= 34` signed bits before the addition
gives the same code. -/
def Obligations.BoundedDatapathGivesTheSameCode : Prop :=
  ∀ (n : Nat) (r zp : Int), 34 ≤ n → -2 ^ 31 ≤ zp → zp ≤ 2 ^ 31 - 1 →
    clamp8 (max (-2 ^ (n - 1)) (min r (2 ^ (n - 1) - 1)) + zp) = clamp8 (r + zp)

/-- 42_dequantize.md R125 items 1 and 6: for a valid scale the result is `+0` where the code equals the zero-point;
elsewhere it is no zero, has the sign of `code - zp`, and is never a NaN. -/
def Obligations.DequantizedSignFollowsTheDifference : Prop :=
  ∀ (code zp : Int) (scale : F32), -128 ≤ code → code ≤ 127 → -2 ^ 31 ≤ zp → zp ≤ 2 ^ 31 - 1 →
    validScale scale = true →
    fIsNaN (dq code scale zp) = false ∧
    (code = zp → dq code scale zp = 0x00000000) ∧
    (code ≠ zp → fIsZero (dq code scale zp) = false ∧ fSign (dq code scale zp) = decide (code < zp))

/-! ### The commands over buffers -/

/-- 41_quantize.md R103 and R104: `QUANTIZE` whole. With an empty source or different lengths it reports the error.
Otherwise, where every element access is inside MEM (20_memory.md R42), it answers the state in which pass 1 has
calibrated on the original elements and pass 2 has gone through memories `m 0, m 1, ..., m n`, reading element `i`
from `m i` and writing its code. That overlapping buffers and buffers that wrap past the top of the address space are
executed so, where R165, R166, U9 and U10 advise a refusal, is the model's choice (log 9, log 10). -/
def Obligations.QuantizeRunsItsTwoPasses : Prop :=
  ∀ s : State,
    (s.f32Len = 0 → exec .quantize s = .next (s.withStatus 0x00000011)) ∧
    (s.f32Len ≠ 0 → s.f32Len ≠ s.i8Len → exec .quantize s = .next (s.withStatus 0x00000013)) ∧
    (s.f32Len ≠ 0 → s.f32Len = s.i8Len → accessesInside s s.f32Len.toNat →
      ∃ (r : F32 × F32) (c : F32 × Int × Bool) (m : Nat → Memory),
        r = range (f32Elem s 0) ((List.range (s.f32Len.toNat - 1)).map fun j => f32Elem s (j + 1)) ∧
        c = calib r.1 r.2 ∧ m 0 = s.mem ∧
        (∀ i < s.f32Len.toNat, m (i + 1) = Memory.write (m i) (i8Addr s i).toNat
          (BitVec.ofInt 8 (qelem s.params.roundTie (Memory.readLE (m i) (f32Addr s i).toNat .w4) c.1 c.2.1).1)) ∧
        exec .quantize s = .next { s with
          minReg := r.1
          maxReg := r.2
          scale := c.1
          zp := BitVec.ofInt 32 c.2.1
          mem := m s.f32Len.toNat
          status := statusWord 0 true (c.2.2 || (List.range s.f32Len.toNat).any fun i =>
            (qelem s.params.roundTie (Memory.readLE (m i) (f32Addr s i).toNat .w4) c.1 c.2.1).2) })

/-- 41_quantize.md R103, R105, R106 within the host's contract (70_reset_and_hazards.md R165, R166): `QUANTIZE` over
disjoint buffers inside MEM completes, every destination byte is the code of its ORIGINAL source element, every
other byte keeps its value, and the registers hold the range, the parameters and the outcome. -/
def Obligations.QuantizeOfDisjointBuffersGivesEveryCode : Prop :=
  ∀ s : State, s.f32Len ≠ 0 → s.f32Len = s.i8Len → f32BufferInside s → i8BufferInside s → buffersDisjoint s →
    ∃ (t : State) (r : F32 × F32) (c : F32 × Int × Bool),
      r = range (f32Elem s 0) ((List.range (s.f32Len.toNat - 1)).map fun j => f32Elem s (j + 1)) ∧
      c = calib r.1 r.2 ∧ exec .quantize s = .next t ∧
      t = { s with
        minReg := r.1
        maxReg := r.2
        scale := c.1
        zp := BitVec.ofInt 32 c.2.1
        mem := t.mem
        status := statusWord 0 true (c.2.2 || (List.range s.f32Len.toNat).any fun i =>
          (qelem s.params.roundTie (f32Elem s i) c.1 c.2.1).2) } ∧
      (∀ i < s.f32Len.toNat, Memory.byte t.mem (s.i8Base.toNat + i) =
        BitVec.ofInt 8 (qelem s.params.roundTie (f32Elem s i) c.1 c.2.1).1) ∧
      ∀ a : Nat, (a < s.i8Base.toNat ∨ s.i8Base.toNat + s.i8Len.toNat ≤ a) →
        Memory.byte t.mem a = Memory.byte s.mem a

/-- The frame of `QUANTIZE` (41_quantize.md R105, R106): a next state differs from the old one in `STATUS`, `SCALE`,
`ZP`, `MIN`, `MAX` and at most the bytes of the elements of the I8 buffer. -/
def Obligations.QuantizeFrame : Prop :=
  ∀ s t : State, exec .quantize s = .next t →
    t = { s with
      status := t.status
      scale := t.scale
      zp := t.zp
      minReg := t.minReg
      maxReg := t.maxReg
      mem := t.mem } ∧
    ∀ a : Nat, (∀ i < s.f32Len.toNat, a ≠ (i8Addr s i).toNat) → Memory.byte t.mem a = Memory.byte s.mem a

/-- The frames of `DEQ` and `DEQB` (42_dequantize.md R124, R127): `DEQ` changes `DQ_RESULT` and `STATUS` only; `DEQB`
changes `STATUS` and at most the bytes of the elements of the F32 buffer. -/
def Obligations.DequantizeFrames : Prop :=
  ∀ s t : State,
    (exec .deq s = .next t → t = { s with status := t.status, dqResult := t.dqResult }) ∧
    (exec .deqb s = .next t → t = { s with status := t.status, mem := t.mem } ∧
      ∀ a : Nat, (∀ i < s.i8Len.toNat, a < (f32Addr s i).toNat ∨ (f32Addr s i).toNat + 4 ≤ a) →
        Memory.byte t.mem a = Memory.byte s.mem a)

/-- 41_quantize.md R108 item 4: issuing `QUANTIZE` again with nothing changed between gives the same state. -/
def Obligations.QuantizeTwiceGivesTheSameState : Prop :=
  ∀ s t : State, Memory.wf s.mem → f32BufferInside s → i8BufferInside s → buffersDisjoint s →
    exec .quantize s = .next t → exec .quantize t = .next t

/-- 41_quantize.md R109: after a `QUANTIZE` without error over disjoint buffers, `NV = 0` exactly when every source
element is finite and the truncated zero-point lies in the 32-bit range. -/
def Obligations.NvIsClearExactlyOnTheDefinedDomain : Prop :=
  ∀ s t : State, f32BufferInside s → i8BufferInside s → buffersDisjoint s →
    exec .quantize s = .next t → statusErr t.status = 0 →
    (statusNv t.status = false ↔
      (∀ i < s.f32Len.toNat, fFinite (f32Elem s i) = true) ∧
        fFinite (calibU t.minReg t.maxReg) = true ∧
        -2 ^ 31 ≤ fTrunc (calibU t.minReg t.maxReg) ∧ fTrunc (calibU t.minReg t.maxReg) ≤ 2 ^ 31 - 1)

/-- 30_encoding.md R71: `QUANTIZE` with accepted lengths reads the four descriptor registers and the bytes of the F32
buffer (and `ROUND_TIE`, an argument of the model), nothing else. Whatever `STATUS`, `SCALE`, `ZP`, `MIN` and `MAX`
held, its outcome is the same state. Two states that agree in those operands either both stop, or both complete with
the same registers, `DQ_CODE` and `DQ_RESULT` apart, which each keeps, with the same codes, and with every byte equal
that was equal before. Overlapping buffers are included (log 9). -/
def Obligations.QuantizeReadsOnlyItsOperands : Prop :=
  (∀ (s : State) (st sc z mn mx : Word), s.f32Len ≠ 0 → s.f32Len = s.i8Len →
    exec .quantize (((((s.withStatus st).withScale sc).withZp z).withMin mn).withMax mx) = exec .quantize s) ∧
  ∀ s u : State, s.f32Len ≠ 0 → s.f32Len = s.i8Len →
    u.f32BaseHi = s.f32BaseHi → u.f32Len = s.f32Len → u.i8Base = s.i8Base → u.i8Len = s.i8Len → u.params = s.params →
    (∀ i < s.f32Len.toNat, ∀ k < 4,
      Memory.byte u.mem ((f32Addr s i).toNat + k) = Memory.byte s.mem ((f32Addr s i).toNat + k)) →
    (exec .quantize s = .fault .outsideMemory ∧ exec .quantize u = .fault .outsideMemory) ∨
    ∃ t v, exec .quantize s = .next t ∧ exec .quantize u = .next v ∧
      v = { t with dqCode := u.dqCode, dqResult := u.dqResult, mem := v.mem, host := u.host } ∧
      (∀ i < s.f32Len.toNat,
        Memory.byte v.mem (i8Addr s i).toNat = Memory.byte t.mem (i8Addr s i).toNat) ∧
      ∀ a : Nat, Memory.byte u.mem a = Memory.byte s.mem a → Memory.byte v.mem a = Memory.byte t.mem a

/-- 42_dequantize.md R126 and R127: `DEQB` whole. With an invalid scale or different lengths it reports the error.
Otherwise, where every element access is inside MEM (20_memory.md R42), it answers the state in which it has gone
through memories `m 0, m 1, ..., m n`, reading code `i` from `m i` and writing its element. That overlapping buffers
and buffers that wrap past the top of the address space are executed so, where R165, R166, U9 and U10 advise a refusal,
is the model's choice (log 9, log 10). -/
def Obligations.DeqbRunsItsLoop : Prop :=
  ∀ s : State,
    (validScale s.scale = false → exec .deqb s = .next (s.withStatus 0x00000012)) ∧
    (validScale s.scale = true → s.i8Len ≠ s.f32Len → exec .deqb s = .next (s.withStatus 0x00000013)) ∧
    (validScale s.scale = true → s.i8Len = s.f32Len → accessesInside s s.i8Len.toNat →
      ∃ m : Nat → Memory, m 0 = s.mem ∧
        (∀ i < s.i8Len.toNat, m (i + 1) = Memory.writeLE (m i) (f32Addr s i).toNat
          (dq (Memory.byte (m i) (i8Addr s i).toNat).toInt s.scale s.zp.toInt) 4) ∧
        exec .deqb s = .next { s with mem := m s.i8Len.toNat, status := 0x00000010 })

/-- 42_dequantize.md R126, R127 within the host's contract (70_reset_and_hazards.md R165, R166): `DEQB` over disjoint
buffers inside MEM completes, every element of the F32 buffer is the dequantized ORIGINAL code, every other byte
keeps its value, and no register but `STATUS` changes. -/
def Obligations.DeqbOfDisjointBuffersGivesEveryElement : Prop :=
  ∀ s : State, validScale s.scale = true → s.i8Len = s.f32Len → f32BufferInside s → i8BufferInside s →
    buffersDisjoint s →
    ∃ t : State, exec .deqb s = .next t ∧ t = { s with mem := t.mem, status := 0x00000010 } ∧
      (∀ i < s.i8Len.toNat, f32Elem t i = dq (i8Elem s i) s.scale s.zp.toInt) ∧
      ∀ a : Nat, (a < s.f32Base.toNat ∨ s.f32Base.toNat + 4 * s.f32Len.toNat ≤ a) →
        Memory.byte t.mem a = Memory.byte s.mem a

/-- `DEQB` is `DEQ` per element (92_eei_decisions.md D18): each element that `DEQB` writes over disjoint buffers is the
`DQ_RESULT` that `DEQ` gives with that code in `DQ_CODE`. -/
def Obligations.DeqbElementsAgreeWithDeq : Prop :=
  ∀ (s t u : State) (i : Nat), validScale s.scale = true → s.i8Len = s.f32Len → f32BufferInside s →
    i8BufferInside s → buffersDisjoint s → i < s.i8Len.toNat →
    exec .deqb s = .next t →
    exec .deq { s with dqCode := Memory.byte s.mem (i8Addr s i).toNat } = .next u →
    f32Elem t i = u.dqResult

/-! ### Invariants and safe runs -/

/-- The state after reset is legal. -/
def Obligations.ResetStateIsLegal : Prop := Inv State.reset

/-- Every step keeps a state legal: `STATUS` holds one of its values with its reserved bits zero (10_state.md R24),
MEM keeps its canonical form and lists no byte outside `MEM_SIZE` (20_memory.md R40). -/
def Obligations.EveryStepKeepsTheStateLegal : Prop :=
  ∀ s t : State, Inv s → step s = .next t → Inv t

/-- 10_state.md R20: the parameters are fixed for an instance; no step changes them (their place in State is the
model's, log 5, log 6 and log 21). -/
def Obligations.EveryStepKeepsTheParameters : Prop :=
  ∀ s t : State, step s = .next t → t.params = s.params

/-- The machine stops at nothing that the host's contract allows: an operation at a defined offset, inside MEM, or a
command within the bounds of 70_reset_and_hazards.md R166 answers a next state. Overlapping buffers (R165) are not
shut out: that the model executes them is its choice (log 9). -/
def Obligations.OperationWithinContractCompletes : Prop :=
  ∀ (s : State) (op : HostOp) (rest : List HostOp), s.host.script = op :: rest → withinContract s op →
    ∃ t, step s = .next t

/-- 60_exceptions.md R148: `STATUS` changes by a command or a reset only: every other host operation that completes
leaves it. -/
def Obligations.OnlyCommandsAndResetChangeStatus : Prop :=
  ∀ (s t : State) (op : HostOp) (rest : List HostOp), s.host.script = op :: rest → step s = .next t →
    op ≠ .reset → (∀ v, op ≠ .wr 0x00 v) → t.status = s.status
end

