-- ==== Sys2Proof/Laws/Memory.lean ====
section
/-! SUPPORT. The laws of memory as a list of written bytes: a read after a write, the canonical form, and
little-endian groups of bytes (20_memory.md R44, R45). -/

namespace Sys2Proof.Machine

open Sys2Proof

theorem Memory.find?_write (m : Memory) (a : Nat) (v : Byte) (x : Nat) :
    Memory.find? (Memory.write m a v) x = if x = a then some v else Memory.find? m x := by
  induction m with
  | nil => simp [Memory.write, Memory.find?]
  | cons c m ih =>
    obtain ⟨b, w⟩ := c
    simp only [Memory.write]
    split
    · simp [Memory.find?]
    · split
      · subst_vars
        simp only [Memory.find?]
        split <;> simp_all
      · simp only [Memory.find?, ih]
        split <;> split <;> simp_all

theorem Memory.byte_write (m : Memory) (a : Nat) (v : Byte) (x : Nat) :
    Memory.byte (Memory.write m a v) x = if x = a then v else Memory.byte m x := by
  simp only [Memory.byte, Memory.find?_write]
  split <;> simp

@[simp] theorem Memory.byte_write_same (m : Memory) (a : Nat) (v : Byte) :
    Memory.byte (Memory.write m a v) a = v := by simp [Memory.byte_write]

theorem Memory.byte_write_other (m : Memory) {a x : Nat} (v : Byte) (h : x ≠ a) :
    Memory.byte (Memory.write m a v) x = Memory.byte m x := by simp [Memory.byte_write, h]

theorem Memory.mem_write {m : Memory} {a : Nat} {v : Byte} {c : Host.Cell}
    (h : c ∈ Memory.write m a v) : c = (a, v) ∨ c ∈ m := by
  induction m with
  | nil => simpa [Memory.write] using h
  | cons d m ih =>
    obtain ⟨b, w⟩ := d
    simp only [Memory.write] at h
    split at h
    · simpa using h
    · split at h
      · rcases List.mem_cons.1 h with h | h
        · exact .inl h
        · exact .inr (List.mem_cons_of_mem _ h)
      · rcases List.mem_cons.1 h with h | h
        · exact .inr (h ▸ List.mem_cons_self)
        · exact (ih h).imp id (List.mem_cons_of_mem _)

theorem Memory.wf_nil : Memory.wf [] := List.Pairwise.nil

theorem Memory.wf_cons (c : Host.Cell) (m : Memory) :
    Memory.wf (c :: m) ↔ (∀ d ∈ m, c.1 < d.1) ∧ Memory.wf m := by
  simp [Memory.wf, List.pairwise_cons]

theorem Memory.wf_write {m : Memory} (a : Nat) (v : Byte) (h : Memory.wf m) :
    Memory.wf (Memory.write m a v) := by
  induction m with
  | nil => exact List.pairwise_singleton _ _
  | cons d m ih =>
    obtain ⟨b, w⟩ := d
    have h' := (Memory.wf_cons _ _).1 h
    simp only [Memory.write]
    split
    · rename_i hab
      refine (Memory.wf_cons _ _).2 ⟨fun d hd => ?_, h⟩
      rcases List.mem_cons.1 hd with rfl | hd
      · exact hab
      · exact Nat.lt_trans hab (h'.1 d hd)
    · split
      · rename_i hab
        subst hab
        exact (Memory.wf_cons _ _).2 ⟨h'.1, h'.2⟩
      · rename_i h1 h2
        refine (Memory.wf_cons _ _).2 ⟨fun d hd => ?_, ih h'.2⟩
        rcases Memory.mem_write hd with rfl | hd
        · exact Nat.lt_of_le_of_ne (Nat.le_of_not_lt h1) (Ne.symm h2)
        · exact h'.1 d hd

/-- Writing the byte that is already the last written one changes nothing. -/
theorem Memory.write_eq_self {m : Memory} {a : Nat} {v : Byte} (h : Memory.wf m)
    (hv : Memory.find? m a = some v) : Memory.write m a v = m := by
  induction m with
  | nil => simp [Memory.find?] at hv
  | cons d m ih =>
    obtain ⟨b, w⟩ := d
    have h' := (Memory.wf_cons _ _).1 h
    simp only [Memory.find?] at hv
    simp only [Memory.write]
    by_cases hab : a = b
    · subst hab
      simp_all
    · simp only [if_neg hab] at hv ⊢
      have hlt : ¬a < b := by
        intro hlt
        have : ∀ n : Memory, (∀ d ∈ n, b < d.1) → Memory.find? n a = none := by
          intro n
          induction n with
          | nil => intro _; rfl
          | cons e n ihn =>
            intro hn
            have : a ≠ e.1 := by have := hn e List.mem_cons_self; omega
            simp only [Memory.find?, if_neg this]
            exact ihn fun d hd => hn d (List.mem_cons_of_mem _ hd)
        rw [this m h'.1] at hv
        cases hv
      rw [if_neg hlt, ih h'.2 hv]

theorem Memory.byte_writeLE (m : Memory) (a : Nat) (v : Word) (n x : Nat) :
    Memory.byte (Memory.writeLE m a v n) x =
      if a ≤ x ∧ x < a + n then v.extractLsb' (8 * (x - a)) 8 else Memory.byte m x := by
  induction n with
  | zero =>
    rw [if_neg (by omega)]
    rfl
  | succ n ih =>
    simp only [Memory.writeLE, Memory.byte_write, ih]
    by_cases hx : x = a + n
    · rw [if_pos hx, if_pos (by omega), hx, Nat.add_sub_cancel_left]
    · rw [if_neg hx]
      by_cases hr : a ≤ x ∧ x < a + n
      · rw [if_pos hr, if_pos (by omega)]
      · rw [if_neg hr, if_neg (by omega)]

theorem Memory.wf_writeLE {m : Memory} (a : Nat) (v : Word) (n : Nat) (h : Memory.wf m) :
    Memory.wf (Memory.writeLE m a v n) := by
  induction n with
  | zero => exact h
  | succ n ih => exact Memory.wf_write _ _ ih

theorem Memory.mem_writeLE {m : Memory} {a : Nat} {v : Word} {n : Nat} {c : Host.Cell}
    (h : c ∈ Memory.writeLE m a v n) : (a ≤ c.1 ∧ c.1 < a + n) ∨ c ∈ m := by
  induction n with
  | zero => exact .inr h
  | succ n ih =>
    rcases Memory.mem_write h with rfl | h
    · exact .inl ⟨Nat.le_add_right _ _, by simp⟩
    · exact (ih h).imp (fun h => ⟨h.1, by omega⟩) id

/-- A little-endian value depends only on its own bytes. -/
theorem Memory.readLE_congr {m m' : Memory} {a : Nat} (n : AccessWidth)
    (h : ∀ x, a ≤ x → x < a + n.bytes → Memory.byte m x = Memory.byte m' x) :
    Memory.readLE m a n = Memory.readLE m' a n := by
  cases n <;> simp only [AccessWidth.bytes] at h <;> simp only [Memory.readLE]
  · rw [h a (by omega) (by omega)]
  · rw [h a (by omega) (by omega), h (a + 1) (by omega) (by omega)]
  · rw [h a (by omega) (by omega), h (a + 1) (by omega) (by omega), h (a + 2) (by omega) (by omega),
      h (a + 3) (by omega) (by omega)]

/-- The memory that `State.reset` holds is in the canonical form. -/
theorem Memory.wf_reset : Memory.wf State.reset.mem := Memory.wf_nil

end Sys2Proof.Machine
end

