-- ==== Sys2Proof/Laws/State.lean ====
section
/-! SUPPORT. One lemma per field per named update of the state, each true by rfl. -/

namespace Sys2Proof.Machine

open Sys2Proof

@[simp] theorem State.withStatus_status (s : State) (v : Word) : (s.withStatus v).status = v := rfl
@[simp] theorem State.withStatus_f32BaseHi (s : State) (v : Word) : (s.withStatus v).f32BaseHi = s.f32BaseHi := rfl
@[simp] theorem State.withStatus_f32Len (s : State) (v : Word) : (s.withStatus v).f32Len = s.f32Len := rfl
@[simp] theorem State.withStatus_i8Base (s : State) (v : Word) : (s.withStatus v).i8Base = s.i8Base := rfl
@[simp] theorem State.withStatus_i8Len (s : State) (v : Word) : (s.withStatus v).i8Len = s.i8Len := rfl
@[simp] theorem State.withStatus_scale (s : State) (v : Word) : (s.withStatus v).scale = s.scale := rfl
@[simp] theorem State.withStatus_zp (s : State) (v : Word) : (s.withStatus v).zp = s.zp := rfl
@[simp] theorem State.withStatus_minReg (s : State) (v : Word) : (s.withStatus v).minReg = s.minReg := rfl
@[simp] theorem State.withStatus_maxReg (s : State) (v : Word) : (s.withStatus v).maxReg = s.maxReg := rfl
@[simp] theorem State.withStatus_dqCode (s : State) (v : Word) : (s.withStatus v).dqCode = s.dqCode := rfl
@[simp] theorem State.withStatus_dqResult (s : State) (v : Word) : (s.withStatus v).dqResult = s.dqResult := rfl
@[simp] theorem State.withStatus_mem (s : State) (v : Word) : (s.withStatus v).mem = s.mem := rfl
@[simp] theorem State.withStatus_host (s : State) (v : Word) : (s.withStatus v).host = s.host := rfl
@[simp] theorem State.withStatus_params (s : State) (v : Word) : (s.withStatus v).params = s.params := rfl
@[simp] theorem State.withStatus_f32Base (s : State) (v : Word) : (s.withStatus v).f32Base = s.f32Base := rfl
@[simp] theorem State.withStatus_memSize (s : State) (v : Word) : (s.withStatus v).memSize = s.memSize := rfl
@[simp] theorem f32Addr_withStatus (s : State) (v : Word) (i : Nat) : f32Addr (s.withStatus v) i = f32Addr s i := rfl
@[simp] theorem i8Addr_withStatus (s : State) (v : Word) (i : Nat) : i8Addr (s.withStatus v) i = i8Addr s i := rfl

@[simp] theorem State.withF32Base_status (s : State) (v : Word) : (s.withF32Base v).status = s.status := rfl
@[simp] theorem State.withF32Base_f32BaseHi (s : State) (v : Word) : (s.withF32Base v).f32BaseHi = v.extractLsb' 2 30 := rfl
@[simp] theorem State.withF32Base_f32Len (s : State) (v : Word) : (s.withF32Base v).f32Len = s.f32Len := rfl
@[simp] theorem State.withF32Base_i8Base (s : State) (v : Word) : (s.withF32Base v).i8Base = s.i8Base := rfl
@[simp] theorem State.withF32Base_i8Len (s : State) (v : Word) : (s.withF32Base v).i8Len = s.i8Len := rfl
@[simp] theorem State.withF32Base_scale (s : State) (v : Word) : (s.withF32Base v).scale = s.scale := rfl
@[simp] theorem State.withF32Base_zp (s : State) (v : Word) : (s.withF32Base v).zp = s.zp := rfl
@[simp] theorem State.withF32Base_minReg (s : State) (v : Word) : (s.withF32Base v).minReg = s.minReg := rfl
@[simp] theorem State.withF32Base_maxReg (s : State) (v : Word) : (s.withF32Base v).maxReg = s.maxReg := rfl
@[simp] theorem State.withF32Base_dqCode (s : State) (v : Word) : (s.withF32Base v).dqCode = s.dqCode := rfl
@[simp] theorem State.withF32Base_dqResult (s : State) (v : Word) : (s.withF32Base v).dqResult = s.dqResult := rfl
@[simp] theorem State.withF32Base_mem (s : State) (v : Word) : (s.withF32Base v).mem = s.mem := rfl
@[simp] theorem State.withF32Base_host (s : State) (v : Word) : (s.withF32Base v).host = s.host := rfl
@[simp] theorem State.withF32Base_params (s : State) (v : Word) : (s.withF32Base v).params = s.params := rfl
@[simp] theorem State.withF32Base_memSize (s : State) (v : Word) : (s.withF32Base v).memSize = s.memSize := rfl
@[simp] theorem i8Addr_withF32Base (s : State) (v : Word) (i : Nat) : i8Addr (s.withF32Base v) i = i8Addr s i := rfl

@[simp] theorem State.withF32Len_status (s : State) (v : Word) : (s.withF32Len v).status = s.status := rfl
@[simp] theorem State.withF32Len_f32BaseHi (s : State) (v : Word) : (s.withF32Len v).f32BaseHi = s.f32BaseHi := rfl
@[simp] theorem State.withF32Len_f32Len (s : State) (v : Word) : (s.withF32Len v).f32Len = v := rfl
@[simp] theorem State.withF32Len_i8Base (s : State) (v : Word) : (s.withF32Len v).i8Base = s.i8Base := rfl
@[simp] theorem State.withF32Len_i8Len (s : State) (v : Word) : (s.withF32Len v).i8Len = s.i8Len := rfl
@[simp] theorem State.withF32Len_scale (s : State) (v : Word) : (s.withF32Len v).scale = s.scale := rfl
@[simp] theorem State.withF32Len_zp (s : State) (v : Word) : (s.withF32Len v).zp = s.zp := rfl
@[simp] theorem State.withF32Len_minReg (s : State) (v : Word) : (s.withF32Len v).minReg = s.minReg := rfl
@[simp] theorem State.withF32Len_maxReg (s : State) (v : Word) : (s.withF32Len v).maxReg = s.maxReg := rfl
@[simp] theorem State.withF32Len_dqCode (s : State) (v : Word) : (s.withF32Len v).dqCode = s.dqCode := rfl
@[simp] theorem State.withF32Len_dqResult (s : State) (v : Word) : (s.withF32Len v).dqResult = s.dqResult := rfl
@[simp] theorem State.withF32Len_mem (s : State) (v : Word) : (s.withF32Len v).mem = s.mem := rfl
@[simp] theorem State.withF32Len_host (s : State) (v : Word) : (s.withF32Len v).host = s.host := rfl
@[simp] theorem State.withF32Len_params (s : State) (v : Word) : (s.withF32Len v).params = s.params := rfl
@[simp] theorem State.withF32Len_f32Base (s : State) (v : Word) : (s.withF32Len v).f32Base = s.f32Base := rfl
@[simp] theorem State.withF32Len_memSize (s : State) (v : Word) : (s.withF32Len v).memSize = s.memSize := rfl
@[simp] theorem f32Addr_withF32Len (s : State) (v : Word) (i : Nat) : f32Addr (s.withF32Len v) i = f32Addr s i := rfl
@[simp] theorem i8Addr_withF32Len (s : State) (v : Word) (i : Nat) : i8Addr (s.withF32Len v) i = i8Addr s i := rfl

@[simp] theorem State.withI8Base_status (s : State) (v : Word) : (s.withI8Base v).status = s.status := rfl
@[simp] theorem State.withI8Base_f32BaseHi (s : State) (v : Word) : (s.withI8Base v).f32BaseHi = s.f32BaseHi := rfl
@[simp] theorem State.withI8Base_f32Len (s : State) (v : Word) : (s.withI8Base v).f32Len = s.f32Len := rfl
@[simp] theorem State.withI8Base_i8Base (s : State) (v : Word) : (s.withI8Base v).i8Base = v := rfl
@[simp] theorem State.withI8Base_i8Len (s : State) (v : Word) : (s.withI8Base v).i8Len = s.i8Len := rfl
@[simp] theorem State.withI8Base_scale (s : State) (v : Word) : (s.withI8Base v).scale = s.scale := rfl
@[simp] theorem State.withI8Base_zp (s : State) (v : Word) : (s.withI8Base v).zp = s.zp := rfl
@[simp] theorem State.withI8Base_minReg (s : State) (v : Word) : (s.withI8Base v).minReg = s.minReg := rfl
@[simp] theorem State.withI8Base_maxReg (s : State) (v : Word) : (s.withI8Base v).maxReg = s.maxReg := rfl
@[simp] theorem State.withI8Base_dqCode (s : State) (v : Word) : (s.withI8Base v).dqCode = s.dqCode := rfl
@[simp] theorem State.withI8Base_dqResult (s : State) (v : Word) : (s.withI8Base v).dqResult = s.dqResult := rfl
@[simp] theorem State.withI8Base_mem (s : State) (v : Word) : (s.withI8Base v).mem = s.mem := rfl
@[simp] theorem State.withI8Base_host (s : State) (v : Word) : (s.withI8Base v).host = s.host := rfl
@[simp] theorem State.withI8Base_params (s : State) (v : Word) : (s.withI8Base v).params = s.params := rfl
@[simp] theorem State.withI8Base_f32Base (s : State) (v : Word) : (s.withI8Base v).f32Base = s.f32Base := rfl
@[simp] theorem State.withI8Base_memSize (s : State) (v : Word) : (s.withI8Base v).memSize = s.memSize := rfl
@[simp] theorem f32Addr_withI8Base (s : State) (v : Word) (i : Nat) : f32Addr (s.withI8Base v) i = f32Addr s i := rfl

@[simp] theorem State.withI8Len_status (s : State) (v : Word) : (s.withI8Len v).status = s.status := rfl
@[simp] theorem State.withI8Len_f32BaseHi (s : State) (v : Word) : (s.withI8Len v).f32BaseHi = s.f32BaseHi := rfl
@[simp] theorem State.withI8Len_f32Len (s : State) (v : Word) : (s.withI8Len v).f32Len = s.f32Len := rfl
@[simp] theorem State.withI8Len_i8Base (s : State) (v : Word) : (s.withI8Len v).i8Base = s.i8Base := rfl
@[simp] theorem State.withI8Len_i8Len (s : State) (v : Word) : (s.withI8Len v).i8Len = v := rfl
@[simp] theorem State.withI8Len_scale (s : State) (v : Word) : (s.withI8Len v).scale = s.scale := rfl
@[simp] theorem State.withI8Len_zp (s : State) (v : Word) : (s.withI8Len v).zp = s.zp := rfl
@[simp] theorem State.withI8Len_minReg (s : State) (v : Word) : (s.withI8Len v).minReg = s.minReg := rfl
@[simp] theorem State.withI8Len_maxReg (s : State) (v : Word) : (s.withI8Len v).maxReg = s.maxReg := rfl
@[simp] theorem State.withI8Len_dqCode (s : State) (v : Word) : (s.withI8Len v).dqCode = s.dqCode := rfl
@[simp] theorem State.withI8Len_dqResult (s : State) (v : Word) : (s.withI8Len v).dqResult = s.dqResult := rfl
@[simp] theorem State.withI8Len_mem (s : State) (v : Word) : (s.withI8Len v).mem = s.mem := rfl
@[simp] theorem State.withI8Len_host (s : State) (v : Word) : (s.withI8Len v).host = s.host := rfl
@[simp] theorem State.withI8Len_params (s : State) (v : Word) : (s.withI8Len v).params = s.params := rfl
@[simp] theorem State.withI8Len_f32Base (s : State) (v : Word) : (s.withI8Len v).f32Base = s.f32Base := rfl
@[simp] theorem State.withI8Len_memSize (s : State) (v : Word) : (s.withI8Len v).memSize = s.memSize := rfl
@[simp] theorem f32Addr_withI8Len (s : State) (v : Word) (i : Nat) : f32Addr (s.withI8Len v) i = f32Addr s i := rfl
@[simp] theorem i8Addr_withI8Len (s : State) (v : Word) (i : Nat) : i8Addr (s.withI8Len v) i = i8Addr s i := rfl

@[simp] theorem State.withScale_status (s : State) (v : Word) : (s.withScale v).status = s.status := rfl
@[simp] theorem State.withScale_f32BaseHi (s : State) (v : Word) : (s.withScale v).f32BaseHi = s.f32BaseHi := rfl
@[simp] theorem State.withScale_f32Len (s : State) (v : Word) : (s.withScale v).f32Len = s.f32Len := rfl
@[simp] theorem State.withScale_i8Base (s : State) (v : Word) : (s.withScale v).i8Base = s.i8Base := rfl
@[simp] theorem State.withScale_i8Len (s : State) (v : Word) : (s.withScale v).i8Len = s.i8Len := rfl
@[simp] theorem State.withScale_scale (s : State) (v : Word) : (s.withScale v).scale = v := rfl
@[simp] theorem State.withScale_zp (s : State) (v : Word) : (s.withScale v).zp = s.zp := rfl
@[simp] theorem State.withScale_minReg (s : State) (v : Word) : (s.withScale v).minReg = s.minReg := rfl
@[simp] theorem State.withScale_maxReg (s : State) (v : Word) : (s.withScale v).maxReg = s.maxReg := rfl
@[simp] theorem State.withScale_dqCode (s : State) (v : Word) : (s.withScale v).dqCode = s.dqCode := rfl
@[simp] theorem State.withScale_dqResult (s : State) (v : Word) : (s.withScale v).dqResult = s.dqResult := rfl
@[simp] theorem State.withScale_mem (s : State) (v : Word) : (s.withScale v).mem = s.mem := rfl
@[simp] theorem State.withScale_host (s : State) (v : Word) : (s.withScale v).host = s.host := rfl
@[simp] theorem State.withScale_params (s : State) (v : Word) : (s.withScale v).params = s.params := rfl
@[simp] theorem State.withScale_f32Base (s : State) (v : Word) : (s.withScale v).f32Base = s.f32Base := rfl
@[simp] theorem State.withScale_memSize (s : State) (v : Word) : (s.withScale v).memSize = s.memSize := rfl
@[simp] theorem f32Addr_withScale (s : State) (v : Word) (i : Nat) : f32Addr (s.withScale v) i = f32Addr s i := rfl
@[simp] theorem i8Addr_withScale (s : State) (v : Word) (i : Nat) : i8Addr (s.withScale v) i = i8Addr s i := rfl

@[simp] theorem State.withZp_status (s : State) (v : Word) : (s.withZp v).status = s.status := rfl
@[simp] theorem State.withZp_f32BaseHi (s : State) (v : Word) : (s.withZp v).f32BaseHi = s.f32BaseHi := rfl
@[simp] theorem State.withZp_f32Len (s : State) (v : Word) : (s.withZp v).f32Len = s.f32Len := rfl
@[simp] theorem State.withZp_i8Base (s : State) (v : Word) : (s.withZp v).i8Base = s.i8Base := rfl
@[simp] theorem State.withZp_i8Len (s : State) (v : Word) : (s.withZp v).i8Len = s.i8Len := rfl
@[simp] theorem State.withZp_scale (s : State) (v : Word) : (s.withZp v).scale = s.scale := rfl
@[simp] theorem State.withZp_zp (s : State) (v : Word) : (s.withZp v).zp = v := rfl
@[simp] theorem State.withZp_minReg (s : State) (v : Word) : (s.withZp v).minReg = s.minReg := rfl
@[simp] theorem State.withZp_maxReg (s : State) (v : Word) : (s.withZp v).maxReg = s.maxReg := rfl
@[simp] theorem State.withZp_dqCode (s : State) (v : Word) : (s.withZp v).dqCode = s.dqCode := rfl
@[simp] theorem State.withZp_dqResult (s : State) (v : Word) : (s.withZp v).dqResult = s.dqResult := rfl
@[simp] theorem State.withZp_mem (s : State) (v : Word) : (s.withZp v).mem = s.mem := rfl
@[simp] theorem State.withZp_host (s : State) (v : Word) : (s.withZp v).host = s.host := rfl
@[simp] theorem State.withZp_params (s : State) (v : Word) : (s.withZp v).params = s.params := rfl
@[simp] theorem State.withZp_f32Base (s : State) (v : Word) : (s.withZp v).f32Base = s.f32Base := rfl
@[simp] theorem State.withZp_memSize (s : State) (v : Word) : (s.withZp v).memSize = s.memSize := rfl
@[simp] theorem f32Addr_withZp (s : State) (v : Word) (i : Nat) : f32Addr (s.withZp v) i = f32Addr s i := rfl
@[simp] theorem i8Addr_withZp (s : State) (v : Word) (i : Nat) : i8Addr (s.withZp v) i = i8Addr s i := rfl

@[simp] theorem State.withMin_status (s : State) (v : Word) : (s.withMin v).status = s.status := rfl
@[simp] theorem State.withMin_f32BaseHi (s : State) (v : Word) : (s.withMin v).f32BaseHi = s.f32BaseHi := rfl
@[simp] theorem State.withMin_f32Len (s : State) (v : Word) : (s.withMin v).f32Len = s.f32Len := rfl
@[simp] theorem State.withMin_i8Base (s : State) (v : Word) : (s.withMin v).i8Base = s.i8Base := rfl
@[simp] theorem State.withMin_i8Len (s : State) (v : Word) : (s.withMin v).i8Len = s.i8Len := rfl
@[simp] theorem State.withMin_scale (s : State) (v : Word) : (s.withMin v).scale = s.scale := rfl
@[simp] theorem State.withMin_zp (s : State) (v : Word) : (s.withMin v).zp = s.zp := rfl
@[simp] theorem State.withMin_minReg (s : State) (v : Word) : (s.withMin v).minReg = v := rfl
@[simp] theorem State.withMin_maxReg (s : State) (v : Word) : (s.withMin v).maxReg = s.maxReg := rfl
@[simp] theorem State.withMin_dqCode (s : State) (v : Word) : (s.withMin v).dqCode = s.dqCode := rfl
@[simp] theorem State.withMin_dqResult (s : State) (v : Word) : (s.withMin v).dqResult = s.dqResult := rfl
@[simp] theorem State.withMin_mem (s : State) (v : Word) : (s.withMin v).mem = s.mem := rfl
@[simp] theorem State.withMin_host (s : State) (v : Word) : (s.withMin v).host = s.host := rfl
@[simp] theorem State.withMin_params (s : State) (v : Word) : (s.withMin v).params = s.params := rfl
@[simp] theorem State.withMin_f32Base (s : State) (v : Word) : (s.withMin v).f32Base = s.f32Base := rfl
@[simp] theorem State.withMin_memSize (s : State) (v : Word) : (s.withMin v).memSize = s.memSize := rfl
@[simp] theorem f32Addr_withMin (s : State) (v : Word) (i : Nat) : f32Addr (s.withMin v) i = f32Addr s i := rfl
@[simp] theorem i8Addr_withMin (s : State) (v : Word) (i : Nat) : i8Addr (s.withMin v) i = i8Addr s i := rfl

@[simp] theorem State.withMax_status (s : State) (v : Word) : (s.withMax v).status = s.status := rfl
@[simp] theorem State.withMax_f32BaseHi (s : State) (v : Word) : (s.withMax v).f32BaseHi = s.f32BaseHi := rfl
@[simp] theorem State.withMax_f32Len (s : State) (v : Word) : (s.withMax v).f32Len = s.f32Len := rfl
@[simp] theorem State.withMax_i8Base (s : State) (v : Word) : (s.withMax v).i8Base = s.i8Base := rfl
@[simp] theorem State.withMax_i8Len (s : State) (v : Word) : (s.withMax v).i8Len = s.i8Len := rfl
@[simp] theorem State.withMax_scale (s : State) (v : Word) : (s.withMax v).scale = s.scale := rfl
@[simp] theorem State.withMax_zp (s : State) (v : Word) : (s.withMax v).zp = s.zp := rfl
@[simp] theorem State.withMax_minReg (s : State) (v : Word) : (s.withMax v).minReg = s.minReg := rfl
@[simp] theorem State.withMax_maxReg (s : State) (v : Word) : (s.withMax v).maxReg = v := rfl
@[simp] theorem State.withMax_dqCode (s : State) (v : Word) : (s.withMax v).dqCode = s.dqCode := rfl
@[simp] theorem State.withMax_dqResult (s : State) (v : Word) : (s.withMax v).dqResult = s.dqResult := rfl
@[simp] theorem State.withMax_mem (s : State) (v : Word) : (s.withMax v).mem = s.mem := rfl
@[simp] theorem State.withMax_host (s : State) (v : Word) : (s.withMax v).host = s.host := rfl
@[simp] theorem State.withMax_params (s : State) (v : Word) : (s.withMax v).params = s.params := rfl
@[simp] theorem State.withMax_f32Base (s : State) (v : Word) : (s.withMax v).f32Base = s.f32Base := rfl
@[simp] theorem State.withMax_memSize (s : State) (v : Word) : (s.withMax v).memSize = s.memSize := rfl
@[simp] theorem f32Addr_withMax (s : State) (v : Word) (i : Nat) : f32Addr (s.withMax v) i = f32Addr s i := rfl
@[simp] theorem i8Addr_withMax (s : State) (v : Word) (i : Nat) : i8Addr (s.withMax v) i = i8Addr s i := rfl

@[simp] theorem State.withDqCode_status (s : State) (v : Word) : (s.withDqCode v).status = s.status := rfl
@[simp] theorem State.withDqCode_f32BaseHi (s : State) (v : Word) : (s.withDqCode v).f32BaseHi = s.f32BaseHi := rfl
@[simp] theorem State.withDqCode_f32Len (s : State) (v : Word) : (s.withDqCode v).f32Len = s.f32Len := rfl
@[simp] theorem State.withDqCode_i8Base (s : State) (v : Word) : (s.withDqCode v).i8Base = s.i8Base := rfl
@[simp] theorem State.withDqCode_i8Len (s : State) (v : Word) : (s.withDqCode v).i8Len = s.i8Len := rfl
@[simp] theorem State.withDqCode_scale (s : State) (v : Word) : (s.withDqCode v).scale = s.scale := rfl
@[simp] theorem State.withDqCode_zp (s : State) (v : Word) : (s.withDqCode v).zp = s.zp := rfl
@[simp] theorem State.withDqCode_minReg (s : State) (v : Word) : (s.withDqCode v).minReg = s.minReg := rfl
@[simp] theorem State.withDqCode_maxReg (s : State) (v : Word) : (s.withDqCode v).maxReg = s.maxReg := rfl
@[simp] theorem State.withDqCode_dqCode (s : State) (v : Word) : (s.withDqCode v).dqCode = v.extractLsb' 0 8 := rfl
@[simp] theorem State.withDqCode_dqResult (s : State) (v : Word) : (s.withDqCode v).dqResult = s.dqResult := rfl
@[simp] theorem State.withDqCode_mem (s : State) (v : Word) : (s.withDqCode v).mem = s.mem := rfl
@[simp] theorem State.withDqCode_host (s : State) (v : Word) : (s.withDqCode v).host = s.host := rfl
@[simp] theorem State.withDqCode_params (s : State) (v : Word) : (s.withDqCode v).params = s.params := rfl
@[simp] theorem State.withDqCode_f32Base (s : State) (v : Word) : (s.withDqCode v).f32Base = s.f32Base := rfl
@[simp] theorem State.withDqCode_memSize (s : State) (v : Word) : (s.withDqCode v).memSize = s.memSize := rfl
@[simp] theorem f32Addr_withDqCode (s : State) (v : Word) (i : Nat) : f32Addr (s.withDqCode v) i = f32Addr s i := rfl
@[simp] theorem i8Addr_withDqCode (s : State) (v : Word) (i : Nat) : i8Addr (s.withDqCode v) i = i8Addr s i := rfl

@[simp] theorem State.withDqResult_status (s : State) (v : Word) : (s.withDqResult v).status = s.status := rfl
@[simp] theorem State.withDqResult_f32BaseHi (s : State) (v : Word) : (s.withDqResult v).f32BaseHi = s.f32BaseHi := rfl
@[simp] theorem State.withDqResult_f32Len (s : State) (v : Word) : (s.withDqResult v).f32Len = s.f32Len := rfl
@[simp] theorem State.withDqResult_i8Base (s : State) (v : Word) : (s.withDqResult v).i8Base = s.i8Base := rfl
@[simp] theorem State.withDqResult_i8Len (s : State) (v : Word) : (s.withDqResult v).i8Len = s.i8Len := rfl
@[simp] theorem State.withDqResult_scale (s : State) (v : Word) : (s.withDqResult v).scale = s.scale := rfl
@[simp] theorem State.withDqResult_zp (s : State) (v : Word) : (s.withDqResult v).zp = s.zp := rfl
@[simp] theorem State.withDqResult_minReg (s : State) (v : Word) : (s.withDqResult v).minReg = s.minReg := rfl
@[simp] theorem State.withDqResult_maxReg (s : State) (v : Word) : (s.withDqResult v).maxReg = s.maxReg := rfl
@[simp] theorem State.withDqResult_dqCode (s : State) (v : Word) : (s.withDqResult v).dqCode = s.dqCode := rfl
@[simp] theorem State.withDqResult_dqResult (s : State) (v : Word) : (s.withDqResult v).dqResult = v := rfl
@[simp] theorem State.withDqResult_mem (s : State) (v : Word) : (s.withDqResult v).mem = s.mem := rfl
@[simp] theorem State.withDqResult_host (s : State) (v : Word) : (s.withDqResult v).host = s.host := rfl
@[simp] theorem State.withDqResult_params (s : State) (v : Word) : (s.withDqResult v).params = s.params := rfl
@[simp] theorem State.withDqResult_f32Base (s : State) (v : Word) : (s.withDqResult v).f32Base = s.f32Base := rfl
@[simp] theorem State.withDqResult_memSize (s : State) (v : Word) : (s.withDqResult v).memSize = s.memSize := rfl
@[simp] theorem f32Addr_withDqResult (s : State) (v : Word) (i : Nat) : f32Addr (s.withDqResult v) i = f32Addr s i := rfl
@[simp] theorem i8Addr_withDqResult (s : State) (v : Word) (i : Nat) : i8Addr (s.withDqResult v) i = i8Addr s i := rfl

@[simp] theorem State.withMem_status (s : State) (v : Memory) : (s.withMem v).status = s.status := rfl
@[simp] theorem State.withMem_f32BaseHi (s : State) (v : Memory) : (s.withMem v).f32BaseHi = s.f32BaseHi := rfl
@[simp] theorem State.withMem_f32Len (s : State) (v : Memory) : (s.withMem v).f32Len = s.f32Len := rfl
@[simp] theorem State.withMem_i8Base (s : State) (v : Memory) : (s.withMem v).i8Base = s.i8Base := rfl
@[simp] theorem State.withMem_i8Len (s : State) (v : Memory) : (s.withMem v).i8Len = s.i8Len := rfl
@[simp] theorem State.withMem_scale (s : State) (v : Memory) : (s.withMem v).scale = s.scale := rfl
@[simp] theorem State.withMem_zp (s : State) (v : Memory) : (s.withMem v).zp = s.zp := rfl
@[simp] theorem State.withMem_minReg (s : State) (v : Memory) : (s.withMem v).minReg = s.minReg := rfl
@[simp] theorem State.withMem_maxReg (s : State) (v : Memory) : (s.withMem v).maxReg = s.maxReg := rfl
@[simp] theorem State.withMem_dqCode (s : State) (v : Memory) : (s.withMem v).dqCode = s.dqCode := rfl
@[simp] theorem State.withMem_dqResult (s : State) (v : Memory) : (s.withMem v).dqResult = s.dqResult := rfl
@[simp] theorem State.withMem_mem (s : State) (v : Memory) : (s.withMem v).mem = v := rfl
@[simp] theorem State.withMem_host (s : State) (v : Memory) : (s.withMem v).host = s.host := rfl
@[simp] theorem State.withMem_params (s : State) (v : Memory) : (s.withMem v).params = s.params := rfl
@[simp] theorem State.withMem_f32Base (s : State) (v : Memory) : (s.withMem v).f32Base = s.f32Base := rfl
@[simp] theorem State.withMem_memSize (s : State) (v : Memory) : (s.withMem v).memSize = s.memSize := rfl
@[simp] theorem f32Addr_withMem (s : State) (v : Memory) (i : Nat) : f32Addr (s.withMem v) i = f32Addr s i := rfl
@[simp] theorem i8Addr_withMem (s : State) (v : Memory) (i : Nat) : i8Addr (s.withMem v) i = i8Addr s i := rfl

@[simp] theorem State.withScript_status (s : State) (v : List HostOp) : (s.withScript v).status = s.status := rfl
@[simp] theorem State.withScript_f32BaseHi (s : State) (v : List HostOp) : (s.withScript v).f32BaseHi = s.f32BaseHi := rfl
@[simp] theorem State.withScript_f32Len (s : State) (v : List HostOp) : (s.withScript v).f32Len = s.f32Len := rfl
@[simp] theorem State.withScript_i8Base (s : State) (v : List HostOp) : (s.withScript v).i8Base = s.i8Base := rfl
@[simp] theorem State.withScript_i8Len (s : State) (v : List HostOp) : (s.withScript v).i8Len = s.i8Len := rfl
@[simp] theorem State.withScript_scale (s : State) (v : List HostOp) : (s.withScript v).scale = s.scale := rfl
@[simp] theorem State.withScript_zp (s : State) (v : List HostOp) : (s.withScript v).zp = s.zp := rfl
@[simp] theorem State.withScript_minReg (s : State) (v : List HostOp) : (s.withScript v).minReg = s.minReg := rfl
@[simp] theorem State.withScript_maxReg (s : State) (v : List HostOp) : (s.withScript v).maxReg = s.maxReg := rfl
@[simp] theorem State.withScript_dqCode (s : State) (v : List HostOp) : (s.withScript v).dqCode = s.dqCode := rfl
@[simp] theorem State.withScript_dqResult (s : State) (v : List HostOp) : (s.withScript v).dqResult = s.dqResult := rfl
@[simp] theorem State.withScript_mem (s : State) (v : List HostOp) : (s.withScript v).mem = s.mem := rfl
@[simp] theorem State.withScript_script (s : State) (v : List HostOp) : (s.withScript v).host.script = v := rfl
@[simp] theorem State.withScript_answers (s : State) (v : List HostOp) : (s.withScript v).host.answers = s.host.answers := rfl
@[simp] theorem State.withScript_params (s : State) (v : List HostOp) : (s.withScript v).params = s.params := rfl
@[simp] theorem State.withScript_f32Base (s : State) (v : List HostOp) : (s.withScript v).f32Base = s.f32Base := rfl
@[simp] theorem State.withScript_memSize (s : State) (v : List HostOp) : (s.withScript v).memSize = s.memSize := rfl
@[simp] theorem f32Addr_withScript (s : State) (v : List HostOp) (i : Nat) : f32Addr (s.withScript v) i = f32Addr s i := rfl
@[simp] theorem i8Addr_withScript (s : State) (v : List HostOp) (i : Nat) : i8Addr (s.withScript v) i = i8Addr s i := rfl

@[simp] theorem State.withAnswer_status (s : State) (v : Word) : (s.withAnswer v).status = s.status := rfl
@[simp] theorem State.withAnswer_f32BaseHi (s : State) (v : Word) : (s.withAnswer v).f32BaseHi = s.f32BaseHi := rfl
@[simp] theorem State.withAnswer_f32Len (s : State) (v : Word) : (s.withAnswer v).f32Len = s.f32Len := rfl
@[simp] theorem State.withAnswer_i8Base (s : State) (v : Word) : (s.withAnswer v).i8Base = s.i8Base := rfl
@[simp] theorem State.withAnswer_i8Len (s : State) (v : Word) : (s.withAnswer v).i8Len = s.i8Len := rfl
@[simp] theorem State.withAnswer_scale (s : State) (v : Word) : (s.withAnswer v).scale = s.scale := rfl
@[simp] theorem State.withAnswer_zp (s : State) (v : Word) : (s.withAnswer v).zp = s.zp := rfl
@[simp] theorem State.withAnswer_minReg (s : State) (v : Word) : (s.withAnswer v).minReg = s.minReg := rfl
@[simp] theorem State.withAnswer_maxReg (s : State) (v : Word) : (s.withAnswer v).maxReg = s.maxReg := rfl
@[simp] theorem State.withAnswer_dqCode (s : State) (v : Word) : (s.withAnswer v).dqCode = s.dqCode := rfl
@[simp] theorem State.withAnswer_dqResult (s : State) (v : Word) : (s.withAnswer v).dqResult = s.dqResult := rfl
@[simp] theorem State.withAnswer_mem (s : State) (v : Word) : (s.withAnswer v).mem = s.mem := rfl
@[simp] theorem State.withAnswer_script (s : State) (v : Word) : (s.withAnswer v).host.script = s.host.script := rfl
@[simp] theorem State.withAnswer_answers (s : State) (v : Word) : (s.withAnswer v).host.answers = s.host.answers ++ [v] := rfl
@[simp] theorem State.withAnswer_params (s : State) (v : Word) : (s.withAnswer v).params = s.params := rfl
@[simp] theorem State.withAnswer_f32Base (s : State) (v : Word) : (s.withAnswer v).f32Base = s.f32Base := rfl
@[simp] theorem State.withAnswer_memSize (s : State) (v : Word) : (s.withAnswer v).memSize = s.memSize := rfl
@[simp] theorem f32Addr_withAnswer (s : State) (v : Word) (i : Nat) : f32Addr (s.withAnswer v) i = f32Addr s i := rfl
@[simp] theorem i8Addr_withAnswer (s : State) (v : Word) (i : Nat) : i8Addr (s.withAnswer v) i = i8Addr s i := rfl

@[simp] theorem State.withScript_withScript (s : State) (v w : List HostOp) : (s.withScript v).withScript w = s.withScript w := rfl
@[simp] theorem State.withStatus_withStatus (s : State) (v w : Word) : (s.withStatus v).withStatus w = s.withStatus w := rfl
@[simp] theorem State.withMem_withMem (s : State) (v w : Memory) : (s.withMem v).withMem w = s.withMem w := rfl
@[simp] theorem State.withMem_self (s : State) : s.withMem s.mem = s := rfl
@[simp] theorem State.withStatus_self (s : State) : s.withStatus s.status = s := rfl
@[simp] theorem State.withScript_self (s : State) : s.withScript s.host.script = s := rfl

@[simp] theorem completeCommand_f32BaseHi (s : State) (nv : Bool) : (completeCommand s nv).f32BaseHi = s.f32BaseHi := rfl
@[simp] theorem raiseError_f32BaseHi (s : State) (k : ErrorKind) : (raiseError s k).f32BaseHi = s.f32BaseHi := rfl
@[simp] theorem completeCommand_f32Len (s : State) (nv : Bool) : (completeCommand s nv).f32Len = s.f32Len := rfl
@[simp] theorem raiseError_f32Len (s : State) (k : ErrorKind) : (raiseError s k).f32Len = s.f32Len := rfl
@[simp] theorem completeCommand_i8Base (s : State) (nv : Bool) : (completeCommand s nv).i8Base = s.i8Base := rfl
@[simp] theorem raiseError_i8Base (s : State) (k : ErrorKind) : (raiseError s k).i8Base = s.i8Base := rfl
@[simp] theorem completeCommand_i8Len (s : State) (nv : Bool) : (completeCommand s nv).i8Len = s.i8Len := rfl
@[simp] theorem raiseError_i8Len (s : State) (k : ErrorKind) : (raiseError s k).i8Len = s.i8Len := rfl
@[simp] theorem completeCommand_scale (s : State) (nv : Bool) : (completeCommand s nv).scale = s.scale := rfl
@[simp] theorem raiseError_scale (s : State) (k : ErrorKind) : (raiseError s k).scale = s.scale := rfl
@[simp] theorem completeCommand_zp (s : State) (nv : Bool) : (completeCommand s nv).zp = s.zp := rfl
@[simp] theorem raiseError_zp (s : State) (k : ErrorKind) : (raiseError s k).zp = s.zp := rfl
@[simp] theorem completeCommand_minReg (s : State) (nv : Bool) : (completeCommand s nv).minReg = s.minReg := rfl
@[simp] theorem raiseError_minReg (s : State) (k : ErrorKind) : (raiseError s k).minReg = s.minReg := rfl
@[simp] theorem completeCommand_maxReg (s : State) (nv : Bool) : (completeCommand s nv).maxReg = s.maxReg := rfl
@[simp] theorem raiseError_maxReg (s : State) (k : ErrorKind) : (raiseError s k).maxReg = s.maxReg := rfl
@[simp] theorem completeCommand_dqCode (s : State) (nv : Bool) : (completeCommand s nv).dqCode = s.dqCode := rfl
@[simp] theorem raiseError_dqCode (s : State) (k : ErrorKind) : (raiseError s k).dqCode = s.dqCode := rfl
@[simp] theorem completeCommand_dqResult (s : State) (nv : Bool) : (completeCommand s nv).dqResult = s.dqResult := rfl
@[simp] theorem raiseError_dqResult (s : State) (k : ErrorKind) : (raiseError s k).dqResult = s.dqResult := rfl
@[simp] theorem completeCommand_mem (s : State) (nv : Bool) : (completeCommand s nv).mem = s.mem := rfl
@[simp] theorem raiseError_mem (s : State) (k : ErrorKind) : (raiseError s k).mem = s.mem := rfl
@[simp] theorem completeCommand_host (s : State) (nv : Bool) : (completeCommand s nv).host = s.host := rfl
@[simp] theorem raiseError_host (s : State) (k : ErrorKind) : (raiseError s k).host = s.host := rfl
@[simp] theorem completeCommand_params (s : State) (nv : Bool) : (completeCommand s nv).params = s.params := rfl
@[simp] theorem raiseError_params (s : State) (k : ErrorKind) : (raiseError s k).params = s.params := rfl
@[simp] theorem completeCommand_status (s : State) (nv : Bool) : (completeCommand s nv).status = statusWord 0 true nv := rfl
@[simp] theorem raiseError_status (s : State) (k : ErrorKind) : (raiseError s k).status = statusWord k.code true false := rfl
@[simp] theorem storeCalibration_status (s : State) (mn mx sc : F32) (zp : Int) : (storeCalibration s mn mx sc zp).status = s.status := rfl
@[simp] theorem storeCalibration_f32BaseHi (s : State) (mn mx sc : F32) (zp : Int) : (storeCalibration s mn mx sc zp).f32BaseHi = s.f32BaseHi := rfl
@[simp] theorem storeCalibration_f32Len (s : State) (mn mx sc : F32) (zp : Int) : (storeCalibration s mn mx sc zp).f32Len = s.f32Len := rfl
@[simp] theorem storeCalibration_i8Base (s : State) (mn mx sc : F32) (zp : Int) : (storeCalibration s mn mx sc zp).i8Base = s.i8Base := rfl
@[simp] theorem storeCalibration_i8Len (s : State) (mn mx sc : F32) (zp : Int) : (storeCalibration s mn mx sc zp).i8Len = s.i8Len := rfl
@[simp] theorem storeCalibration_scale (s : State) (mn mx sc : F32) (zp : Int) : (storeCalibration s mn mx sc zp).scale = sc := rfl
@[simp] theorem storeCalibration_zp (s : State) (mn mx sc : F32) (zp : Int) : (storeCalibration s mn mx sc zp).zp = BitVec.ofInt 32 zp := rfl
@[simp] theorem storeCalibration_minReg (s : State) (mn mx sc : F32) (zp : Int) : (storeCalibration s mn mx sc zp).minReg = mn := rfl
@[simp] theorem storeCalibration_maxReg (s : State) (mn mx sc : F32) (zp : Int) : (storeCalibration s mn mx sc zp).maxReg = mx := rfl
@[simp] theorem storeCalibration_dqCode (s : State) (mn mx sc : F32) (zp : Int) : (storeCalibration s mn mx sc zp).dqCode = s.dqCode := rfl
@[simp] theorem storeCalibration_dqResult (s : State) (mn mx sc : F32) (zp : Int) : (storeCalibration s mn mx sc zp).dqResult = s.dqResult := rfl
@[simp] theorem storeCalibration_mem (s : State) (mn mx sc : F32) (zp : Int) : (storeCalibration s mn mx sc zp).mem = s.mem := rfl
@[simp] theorem storeCalibration_host (s : State) (mn mx sc : F32) (zp : Int) : (storeCalibration s mn mx sc zp).host = s.host := rfl
@[simp] theorem storeCalibration_params (s : State) (mn mx sc : F32) (zp : Int) : (storeCalibration s mn mx sc zp).params = s.params := rfl
@[simp] theorem resetEvent_status (s : State) : (resetEvent s).status = 0 := rfl
@[simp] theorem resetEvent_f32BaseHi (s : State) : (resetEvent s).f32BaseHi = 0 := rfl
@[simp] theorem resetEvent_f32Len (s : State) : (resetEvent s).f32Len = 0 := rfl
@[simp] theorem resetEvent_i8Base (s : State) : (resetEvent s).i8Base = 0 := rfl
@[simp] theorem resetEvent_i8Len (s : State) : (resetEvent s).i8Len = 0 := rfl
@[simp] theorem resetEvent_scale (s : State) : (resetEvent s).scale = 0 := rfl
@[simp] theorem resetEvent_zp (s : State) : (resetEvent s).zp = 0 := rfl
@[simp] theorem resetEvent_minReg (s : State) : (resetEvent s).minReg = 0 := rfl
@[simp] theorem resetEvent_maxReg (s : State) : (resetEvent s).maxReg = 0 := rfl
@[simp] theorem resetEvent_dqCode (s : State) : (resetEvent s).dqCode = 0 := rfl
@[simp] theorem resetEvent_dqResult (s : State) : (resetEvent s).dqResult = 0 := rfl
@[simp] theorem resetEvent_mem (s : State) : (resetEvent s).mem = s.mem := rfl
@[simp] theorem resetEvent_host (s : State) : (resetEvent s).host = s.host := rfl
@[simp] theorem resetEvent_params (s : State) : (resetEvent s).params = s.params := rfl

end Sys2Proof.Machine
end

