-- ==== Sys2Proof/Laws/Ops.lean ====
section
/-! SUPPORT. One lemma for each shared operation that says once what it can do. -/

namespace Sys2Proof.Machine

open Sys2Proof

/-! ### Memory accesses -/

theorem memRead_eq_ok {s : State} {addr : Word} {n : AccessWidth} {w : Word} :
    memRead s addr n = .ok w ↔ addr.toNat + n.bytes ≤ s.memSize ∧ w = Memory.readLE s.mem addr.toNat n := by
  unfold memRead
  split <;> simp_all [eq_comm]

theorem memRead_of_inside {s : State} {addr : Word} {n : AccessWidth} (h : addr.toNat + n.bytes ≤ s.memSize) :
    memRead s addr n = .ok (Memory.readLE s.mem addr.toNat n) := if_pos h

theorem memRead_of_outside {s : State} {addr : Word} {n : AccessWidth} (h : s.memSize < addr.toNat + n.bytes) :
    memRead s addr n = .error .outsideMemory := if_neg (by omega)

theorem memWrite_eq_ok {s t : State} {addr : Word} {n : AccessWidth} {v : Word} :
    memWrite s addr n v = .ok t ↔
      addr.toNat + n.bytes ≤ s.memSize ∧ t = s.withMem (Memory.writeLE s.mem addr.toNat v n.bytes) := by
  unfold memWrite
  split <;> simp_all [eq_comm]

theorem memWrite_of_inside {s : State} {addr : Word} {n : AccessWidth} (v : Word)
    (h : addr.toNat + n.bytes ≤ s.memSize) :
    memWrite s addr n v = .ok (s.withMem (Memory.writeLE s.mem addr.toNat v n.bytes)) := if_pos h

theorem memWrite_of_outside {s : State} {addr : Word} {n : AccessWidth} (v : Word)
    (h : s.memSize < addr.toNat + n.bytes) : memWrite s addr n v = .error .outsideMemory := if_neg (by omega)

/-! ### Elements -/

theorem readF32_eq_ok {s : State} {i : Nat} {w : F32} :
    readF32 s i = .ok w ↔ (f32Addr s i).toNat + 4 ≤ s.memSize ∧ w = f32Elem s i := memRead_eq_ok

theorem readF32_of_outside {s : State} {i : Nat} (h : s.memSize < (f32Addr s i).toNat + 4) :
    readF32 s i = .error .outsideMemory := memRead_of_outside h

theorem readI8_eq_ok {s : State} {i : Nat} {c : Int} :
    readI8 s i = .ok c ↔ (i8Addr s i).toNat + 1 ≤ s.memSize ∧ c = i8Elem s i := by
  unfold readI8 i8Elem
  by_cases h : (i8Addr s i).toNat + 1 ≤ s.memSize
  · rw [memRead_of_inside (n := .w1) h]
    simp [Memory.readLE, h, eq_comm]
  · rw [memRead_of_outside (n := .w1) (by simpa [AccessWidth.bytes] using h)]
    simp [h]

theorem readI8_of_outside {s : State} {i : Nat} (h : s.memSize < (i8Addr s i).toNat + 1) :
    readI8 s i = .error .outsideMemory := by
  unfold readI8
  rw [memRead_of_outside (n := .w1) h]

theorem writeI8_eq_ok {s t : State} {i : Nat} {c : Int} :
    writeI8 s i c = .ok t ↔ (i8Addr s i).toNat + 1 ≤ s.memSize ∧
      t = s.withMem (Memory.write s.mem (i8Addr s i).toNat (BitVec.ofInt 8 c)) := by
  have h : ((BitVec.ofInt 8 c).setWidth 32).extractLsb' 0 8 = BitVec.ofInt 8 c := by
    apply BitVec.eq_of_toNat_eq
    have := (BitVec.ofInt 8 c).isLt
    simp only [BitVec.extractLsb'_toNat, BitVec.toNat_setWidth, Nat.shiftRight_zero]
    omega
  simp [writeI8, memWrite_eq_ok, AccessWidth.bytes, Memory.writeLE, h]

theorem writeI8_of_outside {s : State} {i : Nat} (c : Int) (h : s.memSize < (i8Addr s i).toNat + 1) :
    writeI8 s i c = .error .outsideMemory := memWrite_of_outside _ h

theorem writeF32_eq_ok {s t : State} {i : Nat} {w : F32} :
    writeF32 s i w = .ok t ↔ (f32Addr s i).toNat + 4 ≤ s.memSize ∧
      t = s.withMem (Memory.writeLE s.mem (f32Addr s i).toNat w 4) := memWrite_eq_ok

theorem writeF32_of_outside {s : State} {i : Nat} (w : F32) (h : s.memSize < (f32Addr s i).toNat + 4) :
    writeF32 s i w = .error .outsideMemory := memWrite_of_outside _ h

/-! ### How a command ends -/

theorem raiseError_eq (s : State) (k : ErrorKind) : raiseError s k = s.withStatus (statusWord k.code true false) := rfl

theorem completeCommand_eq (s : State) (nv : Bool) : completeCommand s nv = s.withStatus (statusWord 0 true nv) := rfl

/-! ### The loops -/

/-- A property of `k + 1` consecutive indices is one of the first and one of the `k` that follow. -/
theorem forall_lt_succ_shift {P : Nat → Prop} {k i : Nat} :
    (∀ j < k + 1, P (i + j)) ↔ P i ∧ ∀ j < k, P (i + 1 + j) := by
  constructor
  · intro h
    refine ⟨h 0 (by omega), fun j hj => ?_⟩
    have := h (j + 1) (by omega)
    rwa [show i + (j + 1) = i + 1 + j by omega] at this
  · rintro ⟨h0, h⟩ j hj
    rcases j with _ | j
    · exact h0
    · have := h j (by omega)
      rwa [show i + 1 + j = i + (j + 1) by omega] at this

theorem readF32s_eq_ok {s : State} {i k : Nat} {vs : List F32} :
    readF32s s i k = .ok vs ↔
      (∀ j < k, (f32Addr s (i + j)).toNat + 4 ≤ s.memSize) ∧ vs = (List.range k).map fun j => f32Elem s (i + j) := by
  induction k generalizing i vs with
  | zero => simp [readF32s, eq_comm]
  | succ k ih =>
    have hlist : ((List.range (k + 1)).map fun j => f32Elem s (i + j)) =
        f32Elem s i :: (List.range k).map fun j => f32Elem s (i + 1 + j) := by
      simp only [List.range_succ_eq_map, List.map_cons, List.map_map, Nat.add_zero, List.cons.injEq, true_and]
      exact List.map_congr_left fun j _ => by simp only [Function.comp_apply]; congr 1; omega
    rw [hlist, forall_lt_succ_shift (P := fun j => (f32Addr s j).toNat + 4 ≤ s.memSize)]
    simp only [readF32s]
    rcases h1 : readF32 s i with f | v
    · simp only [reduceCtorEq, false_iff]
      rintro ⟨⟨h0, -⟩, -⟩
      rw [readF32_eq_ok.2 ⟨h0, rfl⟩] at h1
      cases h1
    · obtain ⟨h0, rfl⟩ := readF32_eq_ok.1 h1
      rcases h2 : readF32s s (i + 1) k with f | ws
      · simp only [reduceCtorEq, false_iff]
        rintro ⟨⟨-, h⟩, -⟩
        rw [ih.2 ⟨h, rfl⟩] at h2
        cases h2
      · obtain ⟨h, rfl⟩ := ih.1 h2
        simp only [Except.ok.injEq]
        exact ⟨fun e => ⟨⟨h0, h⟩, e.symm⟩, fun e => e.2.symm⟩

/-- The memory of pass 2 after `k` codes from element `i`: what 41_quantize.md R104 says of the order of the
accesses, each element read from the memory that the earlier codes have left. -/
def quantMem (s : State) (scale : F32) (zp : Int) : Nat → Nat → Memory → Memory
  | 0, _, m => m
  | k + 1, i, m =>
    quantMem s scale zp k (i + 1) (Memory.write m (i8Addr s i).toNat
      (BitVec.ofInt 8 (qelem s.params.roundTie (Memory.readLE m (f32Addr s i).toNat .w4) scale zp).1))

/-- The `nv` bits of pass 2. -/
def quantNv (s : State) (scale : F32) (zp : Int) : Nat → Nat → Memory → Bool
  | 0, _, _ => false
  | k + 1, i, m =>
    (qelem s.params.roundTie (Memory.readLE m (f32Addr s i).toNat .w4) scale zp).2 ||
      quantNv s scale zp k (i + 1) (Memory.write m (i8Addr s i).toNat
        (BitVec.ofInt 8 (qelem s.params.roundTie (Memory.readLE m (f32Addr s i).toNat .w4) scale zp).1))

/-- Pass 2 leaves every byte that is no destination of its elements. -/
theorem quantMem_byte_other (s : State) (scale : F32) (zp : Int) {k i a : Nat} (m : Memory)
    (h : ∀ j, i ≤ j → j < i + k → a ≠ (i8Addr s j).toNat) :
    Memory.byte (quantMem s scale zp k i m) a = Memory.byte m a := by
  induction k generalizing i m with
  | zero => rfl
  | succ k ih =>
    rw [quantMem, ih _ fun j h1 h2 => h j (by omega) (by omega),
      Memory.byte_write_other _ _ (h i (by omega) (by omega))]

/-- Pass 2 answers exactly where all its accesses are inside MEM, and then changes memory only. -/
theorem quantLoop_eq_ok {scale : F32} {zp : Int} {k i : Nat} {nv : Bool} {s : State} {r : State × Bool} :
    quantLoop scale zp k i nv s = .ok r ↔
      (∀ j < k, (f32Addr s (i + j)).toNat + 4 ≤ s.memSize ∧ (i8Addr s (i + j)).toNat + 1 ≤ s.memSize) ∧
        r = (s.withMem (quantMem s scale zp k i s.mem), nv || quantNv s scale zp k i s.mem) := by
  induction k generalizing i nv s r with
  | zero => simp [quantLoop, quantMem, quantNv, eq_comm]
  | succ k ih =>
    have hmem : ∀ (m : Memory) (k i : Nat) (m' : Memory),
        quantMem (s.withMem m) scale zp k i m' = quantMem s scale zp k i m' := by
      intro m k
      induction k with
      | zero => intros; rfl
      | succ k ih => intro i m'; exact ih _ _
    have hnv : ∀ (m : Memory) (k i : Nat) (m' : Memory),
        quantNv (s.withMem m) scale zp k i m' = quantNv s scale zp k i m' := by
      intro m k
      induction k with
      | zero => intros; rfl
      | succ k ih => intro i m'; simp only [quantNv, ih, State.withMem_params, f32Addr_withMem, i8Addr_withMem]
    rw [forall_lt_succ_shift (P := fun j => (f32Addr s j).toNat + 4 ≤ s.memSize ∧ (i8Addr s j).toNat + 1 ≤ s.memSize)]
    simp only [quantLoop]
    rcases h1 : readF32 s i with f | v
    · simp only [reduceCtorEq, false_iff]
      rintro ⟨⟨⟨h0, -⟩, -⟩, -⟩
      rw [readF32_eq_ok.2 ⟨h0, rfl⟩] at h1
      cases h1
    · obtain ⟨h0, rfl⟩ := readF32_eq_ok.1 h1
      simp only
      rcases h2 : writeI8 s i (qelem s.params.roundTie (f32Elem s i) scale zp).1 with f | s'
      · simp only [reduceCtorEq, false_iff]
        rintro ⟨⟨⟨-, h0'⟩, -⟩, -⟩
        rw [writeI8_eq_ok.2 ⟨h0', rfl⟩] at h2
        cases h2
      · obtain ⟨h0', rfl⟩ := writeI8_eq_ok.1 h2
        simp only [ih, f32Addr_withMem, i8Addr_withMem, State.withMem_memSize, State.withMem_mem,
          State.withMem_withMem, hmem, hnv, quantMem, quantNv, f32Elem, Bool.or_assoc]
        exact ⟨fun h => ⟨⟨⟨h0, h0'⟩, h.1⟩, h.2⟩, fun h => ⟨h.1.2, h.2⟩⟩

/-- The memory of `DEQB` after `k` elements from element `i` (42_dequantize.md R127). -/
def deqMem (s : State) : Nat → Nat → Memory → Memory
  | 0, _, m => m
  | k + 1, i, m =>
    deqMem s k (i + 1) (Memory.writeLE m (f32Addr s i).toNat
      (dq (Memory.byte m (i8Addr s i).toNat).toInt s.scale (zpOperand s)) 4)

/-- The loop of `DEQB` leaves every byte outside the four bytes of its elements. -/
theorem deqMem_byte_other (s : State) {k i a : Nat} (m : Memory)
    (h : ∀ j, i ≤ j → j < i + k → a < (f32Addr s j).toNat ∨ (f32Addr s j).toNat + 4 ≤ a) :
    Memory.byte (deqMem s k i m) a = Memory.byte m a := by
  induction k generalizing i m with
  | zero => rfl
  | succ k ih =>
    rw [deqMem, ih _ fun j h1 h2 => h j (by omega) (by omega), Memory.byte_writeLE, if_neg]
    have := h i (by omega) (by omega)
    omega

/-- The loop of `DEQB` answers exactly where all its accesses are inside MEM, and then changes memory only. -/
theorem deqLoop_eq_ok {k i : Nat} {s t : State} :
    deqLoop k i s = .ok t ↔
      (∀ j < k, (f32Addr s (i + j)).toNat + 4 ≤ s.memSize ∧ (i8Addr s (i + j)).toNat + 1 ≤ s.memSize) ∧
        t = s.withMem (deqMem s k i s.mem) := by
  induction k generalizing i s t with
  | zero => simp [deqLoop, deqMem, eq_comm]
  | succ k ih =>
    have hmem : ∀ (m : Memory) (k i : Nat) (m' : Memory), deqMem (s.withMem m) k i m' = deqMem s k i m' := by
      intro m k
      induction k with
      | zero => intros; rfl
      | succ k ih => intro i m'; exact ih _ _
    rw [forall_lt_succ_shift (P := fun j => (f32Addr s j).toNat + 4 ≤ s.memSize ∧ (i8Addr s j).toNat + 1 ≤ s.memSize)]
    simp only [deqLoop]
    rcases h1 : readI8 s i with f | c
    · simp only [reduceCtorEq, false_iff]
      rintro ⟨⟨⟨-, h0⟩, -⟩, -⟩
      rw [readI8_eq_ok.2 ⟨h0, rfl⟩] at h1
      cases h1
    · obtain ⟨h0, rfl⟩ := readI8_eq_ok.1 h1
      simp only
      rcases h2 : writeF32 s i (dq (i8Elem s i) s.scale (zpOperand s)) with f | s'
      · simp only [reduceCtorEq, false_iff]
        rintro ⟨⟨⟨h0', -⟩, -⟩, -⟩
        rw [writeF32_eq_ok.2 ⟨h0', rfl⟩] at h2
        cases h2
      · obtain ⟨h0', rfl⟩ := writeF32_eq_ok.1 h2
        simp only [ih, f32Addr_withMem, i8Addr_withMem, State.withMem_memSize, State.withMem_mem,
          State.withMem_withMem, hmem, deqMem, i8Elem]
        exact ⟨fun h => ⟨⟨⟨h0', h0⟩, h.1⟩, h.2⟩, fun h => ⟨h.1.2, h.2⟩⟩

end Sys2Proof.Machine
end

