-- ==== Sys2Proof/Laws/Commands.lean ====
section
/-! SUPPORT. One lemma for each command's work on its buffers and for each host operation: where it answers, and
what. -/

namespace Sys2Proof.Machine

open Sys2Proof

/-- `RANGE` over the F32 buffer of a state (41_quantize.md R103). -/
def bufferRange (s : State) (n : Nat) : F32 × F32 :=
  range (f32Elem s 0) ((List.range (n - 1)).map fun j => f32Elem s (1 + j))

/-- `CALIB` of that range. -/
def bufferCalib (s : State) (n : Nat) : F32 × Int × Bool := calib (bufferRange s n).1 (bufferRange s n).2

/-- The state a successful `QUANTIZE` of `n` elements leaves (41_quantize.md R103). -/
def quantized (s : State) (n : Nat) : State :=
  completeCommand
    (storeCalibration (s.withMem (quantMem s (bufferCalib s n).1 (bufferCalib s n).2.1 n 0 s.mem))
      (bufferRange s n).1 (bufferRange s n).2 (bufferCalib s n).1 (bufferCalib s n).2.1)
    ((bufferCalib s n).2.2 || quantNv s (bufferCalib s n).1 (bufferCalib s n).2.1 n 0 s.mem)

theorem quantizePass2_eq_ok {s t : State} {n : Nat} {r : F32 × F32} {c : F32 × Int × Bool} :
    quantizePass2 s n r c = .ok t ↔ accessesInside s n ∧
      t = completeCommand (storeCalibration (s.withMem (quantMem s c.1 c.2.1 n 0 s.mem)) r.1 r.2 c.1 c.2.1)
        (c.2.2 || quantNv s c.1 c.2.1 n 0 s.mem) := by
  unfold quantizePass2
  have h := @quantLoop_eq_ok c.1 c.2.1 n 0 c.2.2 s
  simp only [Nat.zero_add] at h
  rcases h1 : quantLoop c.1 c.2.1 n 0 c.2.2 s with f | p
  · simp only [reduceCtorEq, false_iff, not_and]
    intro hin
    rw [h.2 ⟨hin, rfl⟩] at h1
    cases h1
  · obtain ⟨hin, rfl⟩ := h.1 h1
    simp only [Except.ok.injEq]
    exact ⟨fun e => ⟨hin, e.symm⟩, fun e => e.2.symm⟩

theorem quantizeBuffer_eq_ok {s t : State} {n : Nat} (hn : 0 < n) :
    quantizeBuffer s n = .ok t ↔ accessesInside s n ∧ t = quantized s n := by
  unfold quantizeBuffer
  rcases h1 : readF32 s 0 with f | v
  · simp only [reduceCtorEq, false_iff, not_and]
    intro hin
    rw [readF32_eq_ok.2 ⟨(hin 0 hn).1, rfl⟩] at h1
    cases h1
  · obtain ⟨-, rfl⟩ := readF32_eq_ok.1 h1
    simp only
    rcases h2 : readF32s s 1 (n - 1) with f | vs
    · simp only [reduceCtorEq, false_iff, not_and]
      intro hin
      rw [readF32s_eq_ok.2 ⟨fun j hj => (hin (1 + j) (by omega)).1, rfl⟩] at h2
      cases h2
    · obtain ⟨-, rfl⟩ := readF32s_eq_ok.1 h2
      exact quantizePass2_eq_ok

/-- `QUANTIZE` with accepted lengths whose accesses are all inside MEM answers the quantized state. -/
theorem execQuantize_of_inside {s : State} (h0 : s.f32Len ≠ 0) (hl : s.f32Len = s.i8Len)
    (hin : accessesInside s s.f32Len.toNat) : execQuantize s = .next (quantized s s.f32Len.toNat) := by
  have hpos : 0 < s.f32Len.toNat := by
    rcases Nat.eq_zero_or_pos s.f32Len.toNat with h | h
    · exact absurd (BitVec.eq_of_toNat_eq (by simpa using h)) h0
    · exact h
  unfold execQuantize
  rw [if_neg h0, if_neg (by simpa using hl), (quantizeBuffer_eq_ok hpos).2 ⟨hin, rfl⟩]

/-- Everything `QUANTIZE` can answer with a next state. -/
theorem execQuantize_eq_next {s t : State} (h : execQuantize s = .next t) :
    (s.f32Len = 0 ∧ t = raiseError s .emptyInput) ∨
      (s.f32Len ≠ 0 ∧ s.f32Len ≠ s.i8Len ∧ t = raiseError s .lengthMismatch) ∨
      (s.f32Len ≠ 0 ∧ s.f32Len = s.i8Len ∧ accessesInside s s.f32Len.toNat ∧ t = quantized s s.f32Len.toNat) := by
  unfold execQuantize at h
  split at h
  · exact .inl ⟨‹_›, (Host.Outcome.next.inj h).symm⟩
  · rename_i h0
    split at h
    · exact .inr (.inl ⟨h0, ‹_›, (Host.Outcome.next.inj h).symm⟩)
    · rename_i hl
      have hpos : 0 < s.f32Len.toNat := by
        rcases Nat.eq_zero_or_pos s.f32Len.toNat with h | h
        · exact absurd (BitVec.eq_of_toNat_eq (by simpa using h)) h0
        · exact h
      split at h
      · cases h
      · rename_i u hu
        obtain ⟨hin, rfl⟩ := (quantizeBuffer_eq_ok hpos).1 hu
        exact .inr (.inr ⟨h0, not_not.1 hl, hin, (Host.Outcome.next.inj h).symm⟩)

/-- Everything `DEQ` can answer: it always answers a next state. -/
theorem execDeq_eq (s : State) :
    execDeq s = .next (if validScale s.scale then
      completeCommand (s.withDqResult (dq (codeOperand s) s.scale (zpOperand s))) false
      else raiseError s .invalidScale) := by
  unfold execDeq
  split <;> rfl

/-- Everything `DEQB` can answer with a next state. -/
theorem execDeqb_eq_next {s t : State} (h : execDeqb s = .next t) :
    (validScale s.scale = false ∧ t = raiseError s .invalidScale) ∨
      (validScale s.scale = true ∧ s.i8Len ≠ s.f32Len ∧ t = raiseError s .lengthMismatch) ∨
      (validScale s.scale = true ∧ s.i8Len = s.f32Len ∧ accessesInside s s.i8Len.toNat ∧
        t = completeCommand (s.withMem (deqMem s s.i8Len.toNat 0 s.mem)) false) := by
  unfold execDeqb at h
  split at h
  · rename_i hv
    split at h
    · exact .inr (.inl ⟨hv, ‹_›, (Host.Outcome.next.inj h).symm⟩)
    · rename_i hl
      split at h
      · cases h
      · rename_i u hu
        obtain ⟨hin, rfl⟩ := deqLoop_eq_ok.1 hu
        simp only [Nat.zero_add] at hin
        exact .inr (.inr ⟨hv, not_not.1 hl, hin, (Host.Outcome.next.inj h).symm⟩)
  · rename_i hv
    exact .inl ⟨by simpa using hv, (Host.Outcome.next.inj h).symm⟩

/-- `DEQB` with a valid scale and equal lengths whose accesses are all inside MEM. -/
theorem execDeqb_of_inside {s : State} (hv : validScale s.scale = true) (hl : s.i8Len = s.f32Len)
    (hin : accessesInside s s.i8Len.toNat) :
    execDeqb s = .next (completeCommand (s.withMem (deqMem s s.i8Len.toNat 0 s.mem)) false) := by
  unfold execDeqb
  rw [if_pos hv, if_neg (by simpa using hl), deqLoop_eq_ok.2 ⟨fun j hj => by rw [Nat.zero_add]; exact hin j hj, rfl⟩]

/-- A step performs the first operation of the script. -/
theorem step_cons {s : State} {op : HostOp} {rest : List HostOp} (h : s.host.script = op :: rest) :
    step s = performOp op (s.withScript rest) := by
  unfold step stepHost
  rw [h]

end Sys2Proof.Machine
end

