-- ==== Sys2Proof/Laws/F32.lean ====
section
/-! SUPPORT. The fields of binary32 words, the words `fPack` builds, and what rounding and clamping answer. -/

namespace Sys2Proof.Machine

open Sys2Proof

/-! ### Fields of a word (00_scope.md R9) -/

theorem fExp_lt (w : F32) : fExp w < 2 ^ 8 := (w.extractLsb' 23 8).isLt

theorem fFrac_lt (w : F32) : fFrac w < 2 ^ 23 := (w.extractLsb' 0 23).isLt

theorem fFrac_eq (w : F32) : fFrac w = w.toNat % 2 ^ 23 := by
  simp [fFrac, BitVec.extractLsb'_toNat]

theorem fExp_eq (w : F32) : fExp w = w.toNat / 2 ^ 23 % 2 ^ 8 := by
  simp [fExp, BitVec.extractLsb'_toNat, Nat.shiftRight_eq_div_pow]

theorem fSign_eq (w : F32) : fSign w = decide (2 ^ 31 ≤ w.toNat) := by
  have h := BitVec.msb_eq_decide w
  rw [BitVec.msb_eq_getLsbD_last] at h
  exact h

/-- A word is one of: a NaN, an infinity, a finite word. -/
theorem fKinds (w : F32) :
    (fIsNaN w = true ∧ fIsInf w = false ∧ fFinite w = false) ∨
      (fIsNaN w = false ∧ fIsInf w = true ∧ fFinite w = false) ∨
      (fIsNaN w = false ∧ fIsInf w = false ∧ fFinite w = true) := by
  unfold fIsNaN fIsInf fFinite
  by_cases h : fExp w = 255 <;> by_cases h' : fFrac w = 0 <;> simp [h, h']

theorem fFinite_iff (w : F32) : fFinite w = true ↔ fExp w < 255 := by
  have h := fExp_lt w
  simp only [fFinite, bne_iff_ne]
  omega

/-- The magnitude of a finite word is at most that of `0x7F7FFFFF`. -/
theorem fMag_le {w : F32} (h : fFinite w = true) : fMag w ≤ (2 ^ 24 - 1) * 2 ^ 253 := by
  have he := (fFinite_iff w).1 h
  have hf := fFrac_lt w
  unfold fMag
  split
  · exact (show fFrac w ≤ 2 ^ 23 by omega).trans (by norm_num)
  · exact Nat.mul_le_mul (by omega) (Nat.pow_le_pow_right (by norm_num) (by omega))

theorem fUnits_natAbs (w : F32) : (fUnits w).natAbs = fMag w := by
  unfold fUnits
  split <;> simp

/-! ### Words from a sign and a magnitude -/

theorem toNat_fPack (b : Bool) {m : Nat} (h : m < 2 ^ 31) :
    (fPack b m).toNat = (if b then 2 ^ 31 else 0) + m := by
  cases b <;> simp only [fPack, BitVec.toNat_ofNat] <;> rw [Nat.mod_eq_of_lt (by omega)] <;> simp

theorem fSign_fPack (b : Bool) {m : Nat} (h : m < 2 ^ 31) : fSign (fPack b m) = b := by
  rw [fSign_eq, toNat_fPack b h]
  cases b <;> simp; omega

theorem fFrac_fPack (b : Bool) {m : Nat} (h : m < 2 ^ 31) : fFrac (fPack b m) = m % 2 ^ 23 := by
  rw [fFrac_eq, toNat_fPack b h]
  cases b
  · simp
  · rw [if_pos rfl]; omega

theorem fExp_fPack (b : Bool) {m : Nat} (h : m < 2 ^ 31) : fExp (fPack b m) = m / 2 ^ 23 := by
  rw [fExp_eq, toNat_fPack b h]
  cases b
  · rw [if_neg (by decide)]; omega
  · rw [if_pos rfl]; omega

/-- Every word is the packing of its sign and its lower 31 bits. -/
theorem fPack_self (w : F32) : fPack (fSign w) (w.toNat % 2 ^ 31) = w := by
  apply BitVec.eq_of_toNat_eq
  rw [toNat_fPack _ (Nat.mod_lt _ (by norm_num)), fSign_eq]
  have := w.isLt
  by_cases h : 2 ^ 31 ≤ w.toNat
  · rw [if_pos (by simpa using h)]; omega
  · rw [if_neg (by simpa using h)]; omega

/-- `rnd32` keeps the sign it is given. -/
theorem fSign_rnd32 (neg : Bool) (num den : Nat) : fSign (rnd32 neg num den) = neg :=
  fSign_fPack neg (Nat.lt_of_le_of_lt (Nat.min_le_right _ _) (by norm_num))

/-- `rnd32` never gives a NaN. -/
theorem fIsNaN_rnd32 (neg : Bool) (num den : Nat) : fIsNaN (rnd32 neg num den) = false := by
  unfold rnd32
  generalize hm : (min _ _ : Nat) = m
  have h : m ≤ 0x7F800000 := hm ▸ Nat.min_le_right _ _
  unfold fIsNaN
  rw [fExp_fPack neg (by omega), fFrac_fPack neg (by omega)]
  simp
  omega

/-! ### Rounding and clamping -/

/-- `roundHalfEven` is within half of the exact quotient, and even where it is exactly half away. -/
theorem roundHalfEven_spec (num : Nat) {den : Nat} (h : 0 < den) :
    2 * num ≤ 2 * (roundHalfEven num den * den) + den ∧ 2 * (roundHalfEven num den * den) ≤ 2 * num + den ∧
      (2 * num = 2 * (roundHalfEven num den * den) + den ∨ 2 * (roundHalfEven num den * den) = 2 * num + den →
        roundHalfEven num den % 2 = 0) := by
  have hd := Nat.div_add_mod' num den
  have hr := Nat.mod_lt num h
  unfold roundHalfEven
  generalize num / den = q at *
  generalize num % den = r at *
  split
  · omega
  · split
    · rw [Nat.add_one_mul q den]; omega
    · split
      · omega
      · rw [Nat.add_one_mul q den]; omega

theorem clamp8_mem (z : Int) : -128 ≤ clamp8 z ∧ clamp8 z ≤ 127 := by
  unfold clamp8
  split <;> [skip; split] <;> omega

/-- Every code of the element quantizer fits eight signed bits. -/
theorem qelem_mem (tie : RoundTie) (v scale : F32) (zp : Int) :
    -128 ≤ (qelem tie v scale zp).1 ∧ (qelem tie v scale zp).1 ≤ 127 := by
  unfold qelem
  split
  · exact clamp8_mem _
  · split
    · exact ⟨by decide, by decide⟩
    · split
      · exact ⟨by decide, by decide⟩
      · exact clamp8_mem _

end Sys2Proof.Machine
end

