-- ==== Sys2Proof/Laws/PerInstr.lean ====
section
/-! SUPPORT. A statement about each command as syntax, proved constructor by constructor. -/

namespace Sys2Proof.Laws

open Sys2Proof

/-- The word of a command has a zero `RSV` field and the command's operation code in `OPC` (30_encoding.md R67,
R68), and the command is well formed. -/
def EncodedFields.Statement (i : Instr) : Prop :=
  i.wellFormed = true ∧ rsvField (encode i) = 0 ∧ opcField (encode i) = opcode i

theorem EncodedFields.quantize : EncodedFields.Statement .quantize := by unfold EncodedFields.Statement; decide
theorem EncodedFields.deq : EncodedFields.Statement .deq := by unfold EncodedFields.Statement; decide
theorem EncodedFields.deqb : EncodedFields.Statement .deqb := by unfold EncodedFields.Statement; decide

end Sys2Proof.Laws
end

