-- ==== Sys2Proof/Tests/Slice0.lean ====
section
/-! SUPPORT. The model's own tests, each expected result taken from spec/95_test_vectors.md or a rule named beside it,
and for every obligation with hypotheses a witness that meets them. -/

namespace Sys2Proof.Tests

open Sys2Proof Sys2Proof.Machine

/-! ### Helpers -/

/-- The next state of an outcome. -/
def next? : Host.Outcome State Fault Refusal → Option State
  | .next s => some s
  | _ => none

theorem exists_next_of {o : Host.Outcome State Fault Refusal} {p : State → Bool}
    (h : (next? o).any p = true) : ∃ t, o = .next t ∧ p t = true := by
  cases o <;> simp_all [next?]

/-- The state after reset with 16 KiB of memory. -/
def base : State := { State.reset with params := { roundTie := .away, memTop := 0x3FFF, regBase := 0x40000000 } }

/-- `base` with the given next operations. -/
def withOps (ops : List HostOp) : State := base.withScript ops

/-- Words stored one after the other from an address. -/
def fill (m : Memory) (a : Nat) : List F32 → Memory
  | [] => m
  | w :: ws => fill (Memory.writeLE m a w 4) (a + 4) ws

/-- Descriptors set for `n` elements at 0x1000 (F32) and 0x2000 (I8). -/
def described (n : Word) (m : Memory) : State :=
  { base with f32BaseHi := 0x400, f32Len := n, i8Base := 0x2000, i8Len := n, mem := m }

/-- The source's scenario (V1, P1): 25.5 to 29.5. -/
def scenario : State :=
  described 5 (fill [] 0x1000 [0x41CC0000, 0x41D40000, 0x41DC0000, 0x41E40000, 0x41EC0000])

/-- The codes of P5 with their parameters, destination at 0x1000. -/
def coded : State :=
  { described 4 [(0x2000, 0x80), (0x2001, 0x08), (0x2002, 0x36), (0x2003, 0x7F)] with scale := 0x3D60E0E1, zp := 54 }

/-! ### Encoding: the words of 30_encoding.md R68 bit by bit, and words of R70 -/

theorem test_decode_quantize : decode 0b00000000000000000000000000000001 = .ok .quantize := by decide
theorem test_decode_deq : decode 0b00000000000000000000000000000010 = .ok .deq := by decide
theorem test_decode_deqb : decode 0b00000000000000000000000000000011 = .ok .deqb := by decide
theorem test_encode_words : encode .quantize = 1 ∧ encode .deq = 2 ∧ encode .deqb = 3 := by decide
theorem test_decode_zero : decode 0x00000000 = .error .undefinedOpcode := by decide
theorem test_decode_four : decode 0x00000004 = .error .undefinedOpcode := by decide
theorem test_decode_reserved : decode 0x00000101 = .error .reservedField := by decide
theorem test_decode_top_bit : decode 0x80000001 = .error .reservedField := by decide
theorem test_table_rows :
    decodeTableWord 32 1 = some .quantize ∧ decodeTableWord 32 2 = some .deq ∧ decodeTableWord 32 3 = some .deqb := by
  decide
theorem test_register_map : Reg.all.map Reg.offset =
    [0x00, 0x04, 0x08, 0x0C, 0x10, 0x14, 0x18, 0x1C, 0x20, 0x24, 0x28, 0x2C] := by decide
theorem test_register_address : base.regAddress .dqResult = 0x4000002C := by decide

/-! ### WellFormed: each check refuses an ill-formed term (10_state.md R23) -/

theorem test_rd_beyond_map_ill_formed : (HostOp.rd 0x30).wellFormed = false := by decide
theorem test_rd_misaligned_ill_formed : (HostOp.rd 0x06).wellFormed = false := by decide
theorem test_wr_beyond_map_ill_formed : (HostOp.wr 0x34 0).wellFormed = false := by decide
theorem test_wr_misaligned_ill_formed : (HostOp.wr 0x01 0).wellFormed = false := by decide
theorem test_last_register_well_formed : (HostOp.rd 0x2C).wellFormed = true := by decide
theorem test_unaligned_load_well_formed : (HostOp.ld .w4 0x301).wellFormed = true := by decide

/-! ### Flags (10_state.md R24) -/

theorem test_status_success_nv : statusWord 0 true true = 0x00000110 := by decide
theorem test_status_mismatch : statusWord ErrorKind.lengthMismatch.code true false = 0x00000013 := by decide

/-! ### The F32 primitives and the function units (V7, V10, V11, V13) -/

theorem test_fsub_inexact : fsub 0xC3000000 0x4AFFFFFF = 0xCB000080 := by decide
theorem test_fdiv_scale : fdiv 0x40800000 0x437F0000 = 0x3C808081 := by decide
theorem test_fdiv_underflows_to_zero : fdiv 0x0000007F 0x437F0000 = 0x00000000 := by decide
theorem test_fdiv_keeps_subnormal : fdiv 0x00000080 0x437F0000 = 0x00000001 := by decide
theorem test_fsub_overflows : fsub 0x7F61B1E6 0xFF61B1E6 = 0x7F800000 := by decide
theorem test_fmul_overflows : fmul 0x4F000000 0x7F7FFFFF = 0x7F800000 := by decide
theorem test_i2f_ties_to_even : i2f 16777217 = 0x4B800000 ∧ i2f 16777219 = 0x4B800002 := by decide
theorem test_trunc_not_nearest : ftruncSat32 0xC4DB33FF = (-1753, false) := by decide
theorem test_trunc_edge_not_saturated : ftruncSat32 0xCF000000 = (-2 ^ 31, false) := by decide
theorem test_trunc_saturates : ftruncSat32 0xD01502F9 = (-2 ^ 31, true) := by decide
theorem test_fround_half_away : fround .away 0xC0200000 = -3 ∧ fround .even 0xC0200000 = -2 := by decide
theorem test_range_keeps_first_zero : range 0x80000000 [0x00000000] = (0x80000000, 0x80000000) := by decide
theorem test_range_skips_nan : range 0x3F800000 [0x7FC00000, 0x40000000] = (0x3F800000, 0x40000000) := by decide
theorem test_calib_scenario : calib 0x41CC0000 0x41EC0000 = (0x3C808081, -1753, false) := by decide
theorem test_calib_nan : calib 0x7FC00000 0x7FC00000 = (0x7FC00000, 0, true) := by decide
theorem test_qelem_rounded_quotient :
    qelem .away 0x3E800000 0x3DCCCCCD 0 = (3, false) ∧ qelem .even 0x3E800000 0x3DCCCCCD 0 = (2, false) := by decide
theorem test_qelem_exact_sum : qelem .away 0x4B800001 0x3C008081 (-2139095040) = (127, false) := by decide
theorem test_dq_scenario : dq 127 0x3C808081 (-1753) = 0x41EBEBED := by decide
theorem test_dq_wide_difference : dq 127 0x3F800000 (-2 ^ 31) = 0x4F000000 := by decide

/-! ### The commands, one step each (P1, P4, P5, V12, V15) -/

theorem test_quantize_scenario_codes :
    (next? (exec .quantize scenario)).map (fun t => (List.range 5).map fun i => Memory.byte t.mem (0x2000 + i)) =
      some [0x81, 0xC0, 0x00, 0x40, 0x7F] := by decide
theorem test_quantize_scenario_registers :
    (next? (exec .quantize scenario)).map (fun t => [t.status, t.scale, t.zp, t.minReg, t.maxReg]) =
      some [0x00000010, 0x3C808081, 0xFFFFF927, 0x41CC0000, 0x41EC0000] := by decide
theorem test_deq_scenario :
    (next? (exec .deq { base with dqCode := 0x7F, scale := 0x3C808081, zp := 0xFFFFF927 })).map
      (fun t => [t.status, t.dqResult]) = some [0x00000010, 0x41EBEBED] := by decide
theorem test_deq_negative_zero_scale :
    (next? (exec .deq { base with scale := 0x80000000 })).map (fun t => [t.status, t.dqResult]) =
      some [0x00000012, 0x00000000] := by decide
theorem test_deqb_elements :
    (next? (exec .deqb coded)).map (fun t => t.status :: (List.range 4).map fun i => f32Elem t i) =
      some [0x00000010, 0xC11FDFE0, 0xC021A1A2, 0x00000000, 0x40804040] := by decide
theorem test_deqb_priority :
    (next? (exec .deqb { coded with scale := 0, i8Len := 5 })).map (·.status) = some 0x00000012 := by decide
theorem test_quantize_nv_is_set :
    (next? (exec .quantize (described 1 (fill [] 0x1000 [0x501502F9])))).map (fun t => [t.status, t.zp]) =
      some [0x00000110, 0x80000000] := by decide

/-! ### Host operations (V16, V17) and the fetch of a command word -/

theorem test_wr_f32_base_drops_low_bits :
    (next? (step (withOps [.wr 0x08 0x00001003]))).map (fun t => readReg t .f32Base) = some 0x00001000 := by decide
theorem test_wr_dq_code_keeps_low_byte :
    (next? (step (withOps [.wr 0x28 0x12345680]))).map (fun t => readReg t .dqCode) = some 0xFFFFFF80 := by decide
theorem test_wr_status_ignored :
    (next? (step (withOps [.wr 0x04 0xFFFFFFFF]))).map (·.status) = some 0 := by decide
theorem test_st_misaligned_little_endian :
    (next? (step (withOps [.st .w2 0x301 0xBEEF]))).map (fun t => [Memory.byte t.mem 0x301, Memory.byte t.mem 0x302]) =
      some [0xEF, 0xBE] := by decide
theorem test_ld_half_of_word :
    (next? (step { withOps [.ld .w2 0x102] with mem := fill [] 0x100 [0x41CC0000] })).map (·.host.answers) =
      some [0x000041CC] := by decide
theorem test_reset_keeps_memory :
    (next? (step { scenario.withScript [.reset] with scale := 5 })).map (fun t => (t.scale, t.f32Len, decide (t.mem = scenario.mem))) =
      some (0, 0, true) := by decide
theorem test_fetch_word_runs :
    (next? (step (State.reset.withFetchWord 32 1))).map (·.status) = some 0x00000011 ∧
    (next? (step (State.reset.withFetchWord 32 2))).map (·.status) = some 0x00000012 ∧
    (next? (step (State.reset.withFetchWord 32 4))).map (·.status) = some 0x00000014 := by decide
theorem test_memory_order_kept : Memory.wf (Memory.write (Memory.write [] 7 1) 3 2) := by decide

/-! ### Witnesses: for every obligation with hypotheses, states and operands that meet them -/

theorem witness_DecodeAndEncodeAgree : Instr.quantize.wellFormed = true ∧ decode 3 = .ok .deqb := by decide
theorem witness_RegisterOffsetsDecodeAndEncodeAgree :
    Reg.ofOffset 0x00 = some .cmd ∧ Reg.ofOffset 0x2C = some .dqResult ∧ Reg.ofOffset 0x30 = none ∧
      Reg.ofOffset 0x2B = none := by decide
theorem witness_StepRunsTheDecodedCommand :
    (withOps [.wr 0x00 2]).host.script = .wr Reg.cmd.offset 2 :: [] ∧ decode 2 = .ok .deq ∧
      Instr.deq.wellFormed = true ∧ decodeTableWord 32 2 = some .deq := by decide
theorem witness_CommandWordSelectsItsOperation :
    ∀ v : Word, (withOps [.wr 0x00 v]).host.script = .wr 0x00 v :: [] := fun _ => rfl
theorem witness_IllegalCommandChangesOnlyStatus :
    (∀ v : Word, (withOps [.wr 0x00 v]).host.script = .wr 0x00 v :: []) ∧
      ([0x00000000, 4, 0x00000101].all fun v : Word => v != 1 && v != 2 && v != 3) = true := ⟨fun _ => rfl, by decide⟩
theorem witness_NothingHappensBetweenHostOperations : State.reset.host.script = [] := by decide
theorem witness_RegisterReadAnswersItsContent :
    ∀ r ∈ Reg.all, (withOps [.rd r.offset]).host.script = .rd r.offset :: [] := by decide
theorem witness_RegisterWriteChangesOnlyItsRegister :
    ∀ r ∈ Reg.all, (withOps [.wr r.offset 7]).host.script = .wr r.offset 7 :: [] := by decide
theorem witness_HardwiredAndNarrowRegistersReadBack :
    (withOps [.wr 0x08 3, .rd 0x08]).host.script = .wr 0x08 3 :: .rd 0x08 :: [] ∧
      (withOps [.wr 0x28 0x1FF, .rd 0x28]).host.script = .wr 0x28 0x1FF :: .rd 0x28 :: [] := by decide
theorem witness_LoadAnswersLittleEndianValue :
    (withOps [.ld .w4 0x3FFC]).host.script = .ld .w4 0x3FFC :: [] ∧
      (0x3FFC : Word).toNat + AccessWidth.w4.bytes ≤ (withOps [.ld .w4 0x3FFC]).memSize ∧
      (0x3FFE : Word).toNat + AccessWidth.w2.bytes ≤ (withOps [.ld .w2 0x3FFE]).memSize ∧
      (0x3FFF : Word).toNat + AccessWidth.w1.bytes ≤ (withOps [.ld .w1 0x3FFF]).memSize := by decide
theorem witness_StoreWritesExactlyItsBytes :
    (withOps [.st .w4 0x3FFC 5]).host.script = .st .w4 0x3FFC 5 :: [] ∧
      (0x3FFC : Word).toNat + AccessWidth.w4.bytes ≤ (withOps [.st .w4 0x3FFC 5]).memSize := by decide
theorem witness_StoreThenLoadReturnsTheValue :
    (withOps [.st .w2 0x301 0xBEEF, .ld .w2 0x301]).host.script = .st .w2 0x301 0xBEEF :: .ld .w2 0x301 :: [] ∧
      (0x301 : Word).toNat + AccessWidth.w2.bytes ≤ base.memSize := by decide
theorem witness_HostAccessOutsideMemoryStops :
    base.memSize < (0x3FFD : Word).toNat + AccessWidth.w4.bytes ∧
      (withOps [.ld .w4 0x3FFD]).host.script = .ld .w4 0x3FFD :: [] ∧
      (withOps [.st .w4 0x3FFD 0]).host.script = .st .w4 0x3FFD 0 :: [] := by decide

/-- One F32 element past the end of MEM, and one code past it. -/
theorem witness_EngineAccessOutsideMemoryStops :
    (∃ s : State, s.f32Len = s.i8Len ∧ 1 < s.f32Len.toNat ∧ s.memSize < (f32Addr s 1).toNat + 4 ∧ validScale s.scale = true) ∧
    ∃ s : State, s.f32Len = s.i8Len ∧ 1 < s.f32Len.toNat ∧ s.memSize < (i8Addr s 1).toNat + 1 ∧ validScale s.scale = true :=
  ⟨⟨{ described 2 [] with f32BaseHi := 0xFFF, scale := 1 }, by decide⟩,
    ⟨{ described 2 [] with i8Base := 0x3FFF, scale := 1 }, by decide⟩⟩
theorem witness_UndefinedRegisterOffsetIsRefused :
    0x30 ≤ (0x30 : Word).toNat ∧ (0x2E : Word).toNat % 4 ≠ 0 ∧
      (withOps [.rd 0x30]).host.script = .rd 0x30 :: [] ∧ (withOps [.wr 0x2E 1]).host.script = .wr 0x2E 1 :: [] := by
  decide
theorem witness_PseudoInstructionsExpandAsListed :
    (0x3FF8 : Word).toNat + 4 * [(1 : F32), 2].length ≤ base.memSize := by decide
theorem witness_ResetClearsEveryRegisterAndKeepsMemory :
    (scenario.withScript [.reset]).host.script = .reset :: [] := by decide
theorem witness_QuantizeReportsEmptyInputAndLengthMismatch :
    (described 0 []).f32Len = 0 ∧
      ({ described 1 [] with i8Len := 2 } : State).f32Len ≠ 0 ∧
      ({ described 1 [] with i8Len := 2 } : State).f32Len ≠ ({ described 1 [] with i8Len := 2 } : State).i8Len := by
  decide
theorem witness_DeqWritesItsResultOrReportsInvalidScale :
    ([0x00000001, 0x7F7FFFFF].all fun w : F32 => validScale ({ base with scale := w } : State).scale) = true ∧
      ([0x00000000, 0x7F800000, 0x80000001].all fun w : F32 => !validScale ({ base with scale := w } : State).scale) =
        true := by decide
theorem witness_DeqbReportsItsOutcomeInStatus :
    validScale base.scale = false ∧
    (validScale coded.scale = true ∧ ({ coded with i8Len := 5 } : State).i8Len ≠ coded.f32Len) ∧
    (({ described 0 [] with scale := 1 } : State).i8Len = 0 ∧ ({ described 0 [] with scale := 1 } : State).f32Len = 0) ∧
    (coded.i8Len = coded.f32Len ∧ ∃ t, exec .deqb coded = .next t) :=
  ⟨by decide, by decide, by decide, by decide,
    _, execDeqb_of_inside (s := coded) (by decide) (by decide) (by decide)⟩
theorem witness_EachCommandReportsOnlyItsErrors :
    (∃ t, exec .quantize scenario = .next t) ∧ (∃ t, exec .deq coded = .next t) ∧ ∃ t, exec .deqb coded = .next t :=
  ⟨⟨_, execQuantize_of_inside (by decide) (by decide) (by decide)⟩, ⟨_, execDeq_eq _⟩,
    ⟨_, execDeqb_of_inside (by decide) (by decide) (by decide)⟩⟩
theorem witness_FailedCommandChangesOnlyStatus :
    ∃ t, exec .quantize base = .next t ∧ decide (statusErr t.status ≠ 0) = true := exists_next_of (by decide)
theorem witness_LowestErrorCodeIsReported :
    (∃ t, exec .quantize { base with i8Len := 7 } = .next t ∧ true = true) ∧
    (∃ t, exec .deqb { base with i8Len := 7 } = .next t ∧ true = true) ∧
    (base.f32Len = 0 ∧ base.f32Len ≠ ({ base with i8Len := 7 } : State).i8Len ∧ validScale base.scale = false) ∧
    (∃ t, step (withOps [.wr 0x00 0]) = .next t ∧ true = true) ∧
    (∃ t, step (withOps [.wr 0x00 4]) = .next t ∧ decide (3 < (4 : Word).toNat) = true) :=
  ⟨exists_next_of (by decide), exists_next_of (by decide), by decide, exists_next_of (by decide),
    exists_next_of (by decide)⟩
theorem witness_ValidScalesAreThePositiveFiniteWords :
    validScale 0x00000001 = true ∧ validScale 0x7F7FFFFF = true ∧ validScale 0x00000000 = false ∧
      validScale 0x7F800000 = false ∧ validScale 0x80000001 = false := by decide

/-- The overflow threshold and the value just below it (00_scope.md R10). -/
theorem witness_RoundingGivesTheNearestWordTiesToEven :
    rnd32 false ((2 ^ 25 - 1) * 2 ^ 252) 1 = fInf false ∧ rnd32 true ((2 ^ 25 - 1) * 2 ^ 252 - 1) 1 = 0xFF7FFFFF ∧
      fFinite 0xFF7FFFFF = true ∧ rnd32 false 1 2 = 0x00000000 ∧ rnd32 false 3 2 = 0x00000002 := by decide
theorem witness_ArithmeticFollowsItsCases :
    fIsNaN 0x7FC00001 = true ∧ fIsInf 0x7F800000 = true ∧ fIsNaN 0x7F800000 = false ∧ fIsInf 0xFF800000 = true ∧
      fIsInf 0x3F800000 = false ∧ fIsNaN 0x3F800000 = false ∧ fIsZero 0x3F800000 = false ∧ fIsZero 0x80000000 = true ∧
      fIsInf 0x80000000 = false ∧ fIsNaN 0x80000000 = false := by decide
theorem witness_ComparisonsAreByValue :
    fIsNaN 0xFFC00000 = true ∧ fFinite 0x7F7FFFFF = true ∧ fFinite 0xFF7FFFFF = true := by decide
theorem witness_IntegerConversionIsExactUpTo24Bits :
    (16777216 : Int).natAbs ≤ 2 ^ 24 ∧ fUnits (i2f (-16777216)) = -16777216 * 2 ^ 149 := by decide

/-- `-0.99` truncates to 0; `2^31` and `-2^31` stand at the two edges (V6). -/
theorem witness_TruncationGoesTowardZeroAndSaturates :
    fIsNaN 0x7FC00000 = true ∧
    (fFinite 0xBF7D70A4 = true ∧ fUnits 0xBF7D70A4 < 0 ∧ ((0 : Int) - 1) * 2 ^ 149 < fUnits 0xBF7D70A4 ∧
      fUnits 0xBF7D70A4 ≤ (0 : Int) * 2 ^ 149) ∧
    (fFinite 0x4F000000 = true ∧ 0 ≤ fUnits 0x4F000000 ∧ (2 ^ 31 : Int) * 2 ^ 149 ≤ fUnits 0x4F000000 ∧
      fUnits 0x4F000000 < (2 ^ 31 + 1 : Int) * 2 ^ 149) ∧
    (fFinite 0xCF000000 = true ∧ (-2 ^ 31 - 1 : Int) * 2 ^ 149 < fUnits 0xCF000000 ∧
      fUnits 0xCF000000 ≤ (-2 ^ 31 : Int) * 2 ^ 149) := by decide
theorem witness_RoundingToIntegerIsNearestWithTieRule :
    fFinite 0x3F000000 = true ∧ (2 * (fround .even 0x3F000000 * 2 ^ 149 - fUnits 0x3F000000)).natAbs = 2 ^ 149 ∧
      2 ^ 23 * 2 ^ 149 ≤ (fUnits 0x4B000000).natAbs := by decide
theorem witness_ClampSaturatesAtBothEnds :
    clamp8 (-129) = -128 ∧ clamp8 (-128) = -128 ∧ clamp8 127 = 127 ∧ clamp8 128 = 127 := by decide

/-- Finite elements; and a first element that is no NaN before an infinity and a NaN. -/
theorem witness_RangeGivesTheMinimumAndMaximum :
    (∀ w ∈ (0x41CC0000 : F32) :: [0x41EC0000, 0xBF800000], fFinite w = true) ∧
      fIsNaN 0x41CC0000 = false ∧ range 0x41CC0000 [0xFF800000, 0x7FC00000] = (0xFF800000, 0x41CC0000) := by
  simp only [List.mem_cons, List.not_mem_nil, or_false, forall_eq_or_imp, forall_eq]
  decide
theorem witness_RangeCornerCases :
    (fIsNaN 0x00000000 = false ∧ ∀ w ∈ [(0x80000000 : F32)], feq w 0x00000000 = true) ∧ fIsNaN 0x7FC00000 = true := by
  simp only [List.mem_singleton, forall_eq]
  decide

/-- A range that overflows and one that underflows (V8, V10). -/
theorem witness_ScaleOfFiniteRangeIsPositive :
    (fFinite 0xFF61B1E6 = true ∧ fFinite 0x7F61B1E6 = true ∧ fUnits 0xFF61B1E6 ≤ fUnits 0x7F61B1E6 ∧
      fIsInf (calib 0xFF61B1E6 0x7F61B1E6).1 = true) ∧
    (fUnits 0x00000000 ≤ fUnits 0x0000007F ∧ feq (fdiv (fsub 0x0000007F 0x00000000) 0x437F0000) 0x00000000 = true) := by
  decide
theorem witness_ConstantRangeHasScaleOne : fFinite 0xC348C000 = true := by decide
theorem witness_ScaleFallbackFiresExactlyOnUnderflow :
    ([0x00000000, 0x0000007F, 0x00000080, 0x7F7FFFFF].all fun r : F32 => fFinite r && !fSign r) = true ∧
    (fUnits 0x00000000 ≤ fUnits 0x80000000 ∧ fsub 0x80000000 0x00000000 = 0x80000000 ∧
      (calib 0x00000000 0x80000000).1 = 0x3F800000) ∧
    (fUnits 0x00000000 ≤ fUnits 0x00000080 ∧ (fsub 0x00000080 0x00000000).toNat = 0x80 ∧
      (calib 0x00000000 0x00000080).1 = 0x00000001) := by decide
theorem witness_CalibrationFollowsItsFormula :
    feq (fdiv (fsub 0x0000007F 0x00000000) 0x437F0000) 0x00000000 = true ∧
      feq (fdiv (fsub 0x00000080 0x00000000) 0x437F0000) 0x00000000 = false := by decide
theorem witness_ElementQuantizerFollowsItsBranches :
    fIsNaN (fdiv 0x7F800000 0x7F800000) = true ∧ fdiv 0x7F61B1E6 0x3727C5AC = 0x7F800000 ∧
      fdiv 0xFF61B1E6 0x3727C5AC = 0xFF800000 ∧ fFinite (fdiv 0x41EC0000 0x3C808081) = true := by decide
theorem witness_ZeroQuotientGivesTheClampedZeroPoint :
    (fIsZero 0x80000000 = true ∧ validScale 0x00000001 = true) ∧ (fFinite 0x3F800000 = true ∧ fIsInf 0x7F800000 = true) := by
  decide
theorem witness_BoundedDatapathGivesTheSameCode :
    (34 ≤ 34 ∧ (-2 ^ 31 : Int) ≤ -2 ^ 31 ∧ (-2 ^ 31 : Int) ≤ 2 ^ 31 - 1) ∧
      clamp8 (max (-2 ^ (34 - 1)) (min (10 ^ 12) (2 ^ (34 - 1) - 1)) + -2 ^ 31) = 127 := by decide
theorem witness_DequantizedSignFollowsTheDifference :
    (-128 ≤ (127 : Int) ∧ (127 : Int) ≤ 127 ∧ (-2 ^ 31 : Int) ≤ -2 ^ 31 ∧ (-2 ^ 31 : Int) ≤ 2 ^ 31 - 1) ∧
      validScale 0x00000001 = true ∧ dq 127 0x00000001 127 = 0 := by decide
theorem witness_QuantizeRunsItsTwoPasses :
    scenario.f32Len ≠ 0 ∧ scenario.f32Len = scenario.i8Len ∧ accessesInside scenario scenario.f32Len.toNat := by decide
theorem witness_QuantizeOfDisjointBuffersGivesEveryCode :
    scenario.f32Len ≠ 0 ∧ scenario.f32Len = scenario.i8Len ∧ f32BufferInside scenario ∧ i8BufferInside scenario ∧
      buffersDisjoint scenario := by decide
theorem witness_QuantizeFrame : ∃ t, exec .quantize scenario = .next t :=
  ⟨_, execQuantize_of_inside (by decide) (by decide) (by decide)⟩
theorem witness_DequantizeFrames : (∃ t, exec .deq coded = .next t) ∧ ∃ t, exec .deqb coded = .next t :=
  ⟨⟨_, execDeq_eq _⟩, ⟨_, execDeqb_of_inside (by decide) (by decide) (by decide)⟩⟩
theorem witness_QuantizeTwiceGivesTheSameState :
    Memory.wf scenario.mem ∧ f32BufferInside scenario ∧ i8BufferInside scenario ∧ buffersDisjoint scenario ∧
      ∃ t, exec .quantize scenario = .next t :=
  ⟨by decide, by decide, by decide, by decide, _, execQuantize_of_inside (by decide) (by decide) (by decide)⟩
theorem witness_NvIsClearExactlyOnTheDefinedDomain :
    f32BufferInside scenario ∧ i8BufferInside scenario ∧ buffersDisjoint scenario ∧
      ∃ t, exec .quantize scenario = .next t ∧ decide (statusErr t.status = 0) = true :=
  ⟨by decide, by decide, by decide, exists_next_of (by decide)⟩

/-- `scenario` with other contents in every register `QUANTIZE` does not read, and another byte outside the buffer. -/
def otherwise : State :=
  { scenario with scale := 5, dqCode := 7, dqResult := 9, mem := Memory.write scenario.mem 0x1014 0xAB }
theorem witness_QuantizeReadsOnlyItsOperands :
    scenario.f32Len ≠ 0 ∧ scenario.f32Len = scenario.i8Len ∧ otherwise.f32BaseHi = scenario.f32BaseHi ∧
      otherwise.f32Len = scenario.f32Len ∧ otherwise.i8Base = scenario.i8Base ∧ otherwise.i8Len = scenario.i8Len ∧
      otherwise.params = scenario.params ∧
      ∀ i < scenario.f32Len.toNat, ∀ k < 4,
        Memory.byte otherwise.mem ((f32Addr scenario i).toNat + k) =
          Memory.byte scenario.mem ((f32Addr scenario i).toNat + k) := by decide
theorem witness_DeqbRunsItsLoop :
    validScale base.scale = false ∧ (validScale coded.scale = true ∧ coded.i8Len = coded.f32Len ∧
      accessesInside coded coded.i8Len.toNat) := by decide
theorem witness_DeqbOfDisjointBuffersGivesEveryElement :
    validScale coded.scale = true ∧ coded.i8Len = coded.f32Len ∧ f32BufferInside coded ∧ i8BufferInside coded ∧
      buffersDisjoint coded := by decide
theorem witness_DeqbElementsAgreeWithDeq :
    (validScale coded.scale = true ∧ coded.i8Len = coded.f32Len ∧ f32BufferInside coded ∧ i8BufferInside coded ∧
      buffersDisjoint coded ∧ 3 < coded.i8Len.toNat) ∧
    (∃ t, exec .deqb coded = .next t) ∧
    ∃ u, exec .deq { coded with dqCode := Memory.byte coded.mem (i8Addr coded 3).toNat } = .next u :=
  ⟨by decide, ⟨_, execDeqb_of_inside (by decide) (by decide) (by decide)⟩, ⟨_, execDeq_eq _⟩⟩
theorem witness_EveryStepKeepsTheStateLegal :
    Inv (withOps [.wr 0x00 1]) ∧ ∃ t, step (withOps [.wr 0x00 1]) = .next t ∧ true = true :=
  ⟨by decide, exists_next_of (by decide)⟩
theorem witness_EveryStepKeepsTheParameters : ∃ t, step (withOps [.reset]) = .next t ∧ true = true :=
  exists_next_of (by decide)

/-- An operation of each kind within the contract, at the edge of MEM where it has one. -/
theorem witness_OperationWithinContractCompletes :
    withinContract base (.rd 0x2C) ∧ withinContract base (.wr 0x2C 0) ∧ withinContract base (.ld .w4 0x3FFC) ∧
      withinContract base (.st .w4 0x3FFC 0) ∧ withinContract base .reset ∧ withinContract scenario (.wr 0x00 1) := by
  simp only [withinContract]
  decide
theorem witness_OnlyCommandsAndResetChangeStatus :
    (∃ t, step (withOps [.wr 0x04 7]) = .next t ∧ true = true) ∧ HostOp.wr 0x04 7 ≠ .reset ∧
      ∀ v, HostOp.wr 0x04 7 ≠ .wr 0x00 v :=
  ⟨exists_next_of (by decide), by decide, fun v h => by injection h with h _; revert h; decide⟩

end Sys2Proof.Tests
end

section
/-! PROOF. Rounding to binary32 (00_scope.md R10, R13). The words `rnd32` builds, their exact values, and that none
is nearer. -/

namespace Sys2Proof.Machine

open Sys2Proof

/-! ### Words and their exact values -/

/-- A word is determined by its three fields. -/
theorem toNat_eq_fields (w : F32) :
    w.toNat = (if fSign w then 2 ^ 31 else 0) + fExp w * 2 ^ 23 + fFrac w := by
  have hw := w.isLt
  rw [fSign_eq, fExp_eq, fFrac_eq]
  by_cases h : 2 ^ 31 ≤ w.toNat
  · rw [if_pos (decide_eq_true h)]; omega
  · rw [if_neg (by simpa using h)]; omega

theorem eq_of_fields {a b : F32} (hs : fSign a = fSign b) (he : fExp a = fExp b) (hf : fFrac a = fFrac b) : a = b :=
  BitVec.eq_of_toNat_eq (by rw [toNat_eq_fields a, toNat_eq_fields b, hs, he, hf])

theorem fInf_fSign {w : F32} (h : fIsInf w = true) : fInf (fSign w) = w := by
  obtain ⟨he, hf⟩ : fExp w = 255 ∧ fFrac w = 0 := by simpa [fIsInf] using h
  refine eq_of_fields (fSign_fPack _ (by decide)) ?_ ?_
  · rw [he, fInf, fExp_fPack _ (by decide)]; rfl
  · rw [hf, fInf, fFrac_fPack _ (by decide)]; rfl

theorem fIsZero_iff (w : F32) : fIsZero w = true ↔ fMag w = 0 := by
  unfold fIsZero fMag
  by_cases he : fExp w = 0 <;> simp [he]

theorem eq_fZero_iff (w : F32) (b : Bool) : w = fZero b ↔ fIsZero w = true ∧ fSign w = b := by
  constructor
  · rintro rfl
    cases b <;> decide
  · intro ⟨hz, hs⟩
    obtain ⟨he, hf⟩ : fExp w = 0 ∧ fFrac w = 0 := by simpa [fIsZero] using hz
    refine eq_of_fields (hs.trans (fSign_fPack b (by decide)).symm) ?_ ?_
    · rw [he, fZero, fExp_fPack _ (by decide)]; rfl
    · rw [hf, fZero, fFrac_fPack _ (by decide)]; rfl

theorem fIsZero_false_of_fIsInf {w : F32} (h : fIsInf w = true) : fIsZero w = false := by
  obtain ⟨he, -⟩ : fExp w = 255 ∧ fFrac w = 0 := by simpa [fIsInf] using h
  simp [fIsZero, he]

theorem fIsInf_false_of_fIsZero {w : F32} (h : fIsZero w = true) : fIsInf w = false := by
  by_contra hi
  exact Bool.false_ne_true ((fIsZero_false_of_fIsInf (by simpa using hi)).symm.trans h)

theorem fIsNaN_of_fFinite {w : F32} (h : fFinite w = true) : fIsNaN w = false := by
  have he : fExp w ≠ 255 := by simpa [fFinite] using h
  simp [fIsNaN, he]

theorem fIsInf_of_fFinite {w : F32} (h : fFinite w = true) : fIsInf w = false := by
  have he : fExp w ≠ 255 := by simpa [fFinite] using h
  simp [fIsInf, he]

theorem fUnits_cases (w : F32) :
    (fSign w = true ∧ fUnits w = -(fMag w : Int)) ∨ (fSign w = false ∧ fUnits w = fMag w) := by
  unfold fUnits
  cases fSign w <;> simp

/-- The magnitude word `g * 2^23 + q` holds `q` spacings of the grid `2^g`, also where `q` carries into the next
binade. -/
theorem fMag_fPack (b : Bool) {g q : Nat} (hq : q ≤ 2 ^ 24) (hg : 0 < g → 2 ^ 23 ≤ q)
    (h : g * 2 ^ 23 + q < 2 ^ 31) : fMag (fPack b (g * 2 ^ 23 + q)) = q * 2 ^ g := by
  unfold fMag
  rw [fExp_fPack b h, fFrac_fPack b h]
  obtain hlt | hmid | htop : q < 2 ^ 23 ∨ (2 ^ 23 ≤ q ∧ q < 2 ^ 24) ∨ q = 2 ^ 24 := by omega
  · obtain rfl : g = 0 := by omega
    rw [if_pos (by omega)]; omega
  · have he : (g * 2 ^ 23 + q) / 2 ^ 23 = g + 1 := by omega
    rw [he, if_neg (by omega), Nat.add_sub_cancel]
    congr 1; omega
  · have he : (g * 2 ^ 23 + q) / 2 ^ 23 = g + 1 + 1 := by omega
    have hf : (g * 2 ^ 23 + q) % 2 ^ 23 = 0 := by omega
    rw [he, hf, if_neg (by omega), Nat.add_sub_cancel, htop]
    ring

/-- The magnitudes from `2^(g+23)` units on lie on the grid with spacing `2^g`. -/
theorem fMag_lt_or_dvd (w : F32) (g : Nat) : fMag w < 2 ^ g * 2 ^ 23 ∨ 2 ^ g ∣ fMag w := by
  have hf := fFrac_lt w
  unfold fMag
  split
  · exact .inl (hf.trans_le (Nat.le_mul_of_pos_left _ (Nat.two_pow_pos g)))
  · by_cases he : g ≤ fExp w - 1
    · exact .inr (Dvd.dvd.mul_left (pow_dvd_pow 2 he) _)
    · left
      calc (2 ^ 23 + fFrac w) * 2 ^ (fExp w - 1)
          < 2 ^ 24 * 2 ^ (fExp w - 1) := Nat.mul_lt_mul_of_pos_right (by omega) (Nat.two_pow_pos _)
        _ = 2 ^ 23 * 2 ^ (fExp w - 1 + 1) := by ring
        _ ≤ 2 ^ 23 * 2 ^ g := Nat.mul_le_mul_left _ (Nat.pow_le_pow_right (by norm_num) (by omega))
        _ = 2 ^ g * 2 ^ 23 := Nat.mul_comm _ _

/-! ### Rounding to an integer -/

theorem roundHalfEven_le {num den n : Nat} (h : 0 < den) (hn : num ≤ n * den) : roundHalfEven num den ≤ n := by
  obtain ⟨-, hup, -⟩ := roundHalfEven_spec num h
  by_contra hq
  have := Nat.mul_le_mul_right den (Nat.not_le.1 hq)
  rw [Nat.succ_mul] at this
  omega

theorem le_roundHalfEven {num den n : Nat} (h : 0 < den) (hn : n * den ≤ num) : n ≤ roundHalfEven num den := by
  obtain ⟨hlow, -, -⟩ := roundHalfEven_spec num h
  by_contra hq
  have := Nat.mul_le_mul_right den (Nat.not_le.1 hq)
  rw [Nat.succ_mul] at this
  omega

theorem roundHalfEven_mul (k : Nat) {den : Nat} (h : 0 < den) : roundHalfEven (k * den) den = k :=
  Nat.le_antisymm (roundHalfEven_le h le_rfl) (le_roundHalfEven h le_rfl)

/-- Rounding stays below `2^24` exactly below `2^24 - 1/2`: at that value the tie goes up, to the even `2^24`. -/
theorem roundHalfEven_lt_iff (num : Nat) {den : Nat} (h : 0 < den) :
    roundHalfEven num den < 2 ^ 24 ↔ 2 * num < (2 ^ 25 - 1) * den := by
  obtain ⟨hlow, hup, heven⟩ := roundHalfEven_spec num h
  generalize roundHalfEven num den = q at *
  constructor
  · intro hq
    obtain hq | hq : q ≤ 2 ^ 24 - 2 ∨ q = 2 ^ 24 - 1 := by omega
    · have := Nat.mul_le_mul_right den hq
      omega
    · have htie : 2 * num ≠ 2 * (q * den) + den := fun he => by have := heven (.inl he); omega
      calc 2 * num < 2 * (q * den) + den := Nat.lt_of_le_of_ne hlow htie
        _ = (2 ^ 25 - 1) * den := by rw [hq]; ring
  · intro hn
    by_contra hq
    have := Nat.mul_le_mul_right den (Nat.not_lt.1 hq)
    omega

/-- No integer is nearer to `num / den`, and where another is equally near the result is even. -/
theorem roundHalfEven_nearest (num : Nat) {den : Nat} (h : 0 < den) (k : Int) :
    ((num : Int) - roundHalfEven num den * den).natAbs ≤ ((num : Int) - k * den).natAbs ∧
      (((num : Int) - roundHalfEven num den * den).natAbs = ((num : Int) - k * den).natAbs →
        k ≠ roundHalfEven num den → roundHalfEven num den % 2 = 0) := by
  obtain ⟨hlow, hup, heven⟩ := roundHalfEven_spec num h
  generalize roundHalfEven num den = q at *
  obtain hk | rfl | hk : k + 1 ≤ q ∨ k = q ∨ (q : Int) + 1 ≤ k := by omega
  · have := Int.mul_le_mul_of_nonneg_right hk (Int.natCast_nonneg den)
    rw [Int.add_mul, Int.one_mul] at this
    omega
  · exact ⟨le_rfl, fun _ hne => absurd rfl hne⟩
  · have := Int.mul_le_mul_of_nonneg_right hk (Int.natCast_nonneg den)
    rw [Int.add_mul, Int.one_mul] at this
    omega

/-! ### The grid on which `rnd32` rounds -/

/-- The exact value is below `2^24` spacings of its grid. -/
theorem lt_gridExp (num : Nat) {den : Nat} (h : 0 < den) : num < den * 2 ^ gridExp num den * 2 ^ 24 := by
  rw [mul_assoc, ← pow_add, mul_comm den, ← Nat.div_lt_iff_lt_mul h]
  exact Nat.lt_log2_self.trans_le (Nat.pow_le_pow_right (by norm_num) (by unfold gridExp; omega))

/-- Above the subnormal grid the exact value is at least `2^23` spacings. -/
theorem gridExp_le {num den : Nat} (hg : 0 < gridExp num den) : den * 2 ^ gridExp num den * 2 ^ 23 ≤ num := by
  have hlog : gridExp num den + 23 = Nat.log2 (num / den) := by unfold gridExp at *; omega
  have hne : num / den ≠ 0 := fun h => by simp [gridExp, h] at hg
  have hle : 2 ^ (gridExp num den + 23) ≤ num / den := hlog ▸ Nat.log2_self_le hne
  calc den * 2 ^ gridExp num den * 2 ^ 23 = den * 2 ^ (gridExp num den + 23) := by rw [mul_assoc, pow_add]
    _ ≤ den * (num / den) := Nat.mul_le_mul_left _ hle
    _ ≤ num := Nat.mul_div_le num den

/-- How many spacings of its grid `rnd32` rounds the exact value to. -/
def gridQuot (num den : Nat) : Nat := roundHalfEven num (den * 2 ^ gridExp num den)

theorem rnd32_eq (neg : Bool) (num den : Nat) :
    rnd32 neg num den = fPack neg (min (gridExp num den * 2 ^ 23 + gridQuot num den) 0x7F800000) := rfl

theorem gridQuot_le (num : Nat) {den : Nat} (h : 0 < den) : gridQuot num den ≤ 2 ^ 24 :=
  roundHalfEven_le (Nat.mul_pos h (Nat.two_pow_pos _)) ((lt_gridExp num h).trans_eq (Nat.mul_comm _ _)).le

theorem le_gridQuot {num den : Nat} (h : 0 < den) (hg : 0 < gridExp num den) : 2 ^ 23 ≤ gridQuot num den :=
  le_roundHalfEven (Nat.mul_pos h (Nat.two_pow_pos _)) ((Nat.mul_comm _ _).trans_le (gridExp_le hg))

/-- The magnitude word reaches that of the infinity exactly from the overflow threshold `(2^24 - 1/2) * 2^104` on. -/
theorem magWord_lt_iff (num : Nat) {den : Nat} (h : 0 < den) :
    gridExp num den * 2 ^ 23 + gridQuot num den < 0x7F800000 ↔ num < den * ((2 ^ 25 - 1) * 2 ^ 252) := by
  have hlt := lt_gridExp num h
  have hle := @gridExp_le num den
  have hq := gridQuot_le num h
  have hq' := @le_gridQuot num den h
  have hround := roundHalfEven_lt_iff num (Nat.mul_pos h (Nat.two_pow_pos (gridExp num den)))
  change gridQuot num den < _ ↔ _ at hround
  have hmono : ∀ {a b : Nat}, a ≤ b → den * 2 ^ a ≤ den * 2 ^ b := fun hab =>
    Nat.mul_le_mul_left den (Nat.pow_le_pow_right (by norm_num) hab)
  generalize gridQuot num den = q at *
  generalize gridExp num den = g at *
  obtain hg | rfl | hg : g ≤ 252 ∨ g = 253 ∨ 254 ≤ g := by omega
  · have := hmono hg
    omega
  · have : den * 2 ^ 253 = 2 * (den * 2 ^ 252) := by ring
    omega
  · have : den * 2 ^ 254 = 4 * (den * 2 ^ 252) := by ring
    have := hmono hg
    have := hle (by omega)
    omega

theorem rnd32_of_overflow (neg : Bool) {num den : Nat} (h : 0 < den) (hn : den * ((2 ^ 25 - 1) * 2 ^ 252) ≤ num) :
    rnd32 neg num den = fInf neg := by
  have hw := (magWord_lt_iff num h).not.2 (Nat.not_lt.2 hn)
  rw [rnd32_eq, Nat.min_eq_right (Nat.not_lt.1 hw), fInf]

theorem rnd32_of_lt (neg : Bool) {num den : Nat} (h : 0 < den) (hn : num < den * ((2 ^ 25 - 1) * 2 ^ 252)) :
    rnd32 neg num den = fPack neg (gridExp num den * 2 ^ 23 + gridQuot num den) := by
  rw [rnd32_eq, Nat.min_eq_left ((magWord_lt_iff num h).2 hn).le]

theorem fFinite_rnd32 (neg : Bool) {num den : Nat} (h : 0 < den) (hn : num < den * ((2 ^ 25 - 1) * 2 ^ 252)) :
    fFinite (rnd32 neg num den) = true := by
  have hw := (magWord_lt_iff num h).2 hn
  rw [fFinite_iff, rnd32_of_lt neg h hn, fExp_fPack neg (by omega)]
  omega

/-- The fraction field of a finite result has the parity of its number of spacings. -/
theorem fFrac_rnd32_mod_two (neg : Bool) {num den : Nat} (h : 0 < den) (hn : num < den * ((2 ^ 25 - 1) * 2 ^ 252)) :
    fFrac (rnd32 neg num den) % 2 = gridQuot num den % 2 := by
  have hw := (magWord_lt_iff num h).2 hn
  rw [rnd32_of_lt neg h hn, fFrac_fPack neg (by omega)]
  omega

theorem fMag_rnd32 (neg : Bool) {num den : Nat} (h : 0 < den) (hn : num < den * ((2 ^ 25 - 1) * 2 ^ 252)) :
    fMag (rnd32 neg num den) = gridQuot num den * 2 ^ gridExp num den := by
  have hw := (magWord_lt_iff num h).2 hn
  rw [rnd32_of_lt neg h hn]
  exact fMag_fPack neg (gridQuot_le num h) (le_gridQuot h) (by omega)

/-- A value that lies on its own grid is not changed by rounding. -/
theorem fMag_rnd32_exact (neg : Bool) {num den : Nat} (h : 0 < den) (hn : num < den * ((2 ^ 25 - 1) * 2 ^ 252))
    (hd : den * 2 ^ gridExp num den ∣ num) : den * fMag (rnd32 neg num den) = num := by
  obtain ⟨k, hk⟩ := hd
  have hq : gridQuot num den = k := by
    unfold gridQuot
    generalize hD : den * 2 ^ gridExp num den = D at *
    rw [hk, Nat.mul_comm D k]
    exact roundHalfEven_mul k (hD ▸ Nat.mul_pos h (Nat.two_pow_pos _))
  rw [fMag_rnd32 neg h hn, hq, Nat.mul_comm k, ← Nat.mul_assoc, ← hk]

theorem rnd32_zero (neg : Bool) (den : Nat) : rnd32 neg 0 den = fZero neg := by
  simp [rnd32, gridExp, roundHalfEven, fZero]

theorem fUnits_rnd32 (neg : Bool) (num den : Nat) :
    fUnits (rnd32 neg num den) = if neg then -(fMag (rnd32 neg num den) : Int) else fMag (rnd32 neg num den) := by
  rw [fUnits, fSign_rnd32]

/-! ### No finite word is nearer (R10) -/

/-- `gridQuot` spacings are nearest among the integers that a binary32 word can hold, each a multiple of the grid's
spacing or below the grid's binade. -/
theorem gridQuot_nearest_units {num den : Nat} (h : 0 < den) {u : Int}
    (hu : u < (2 ^ gridExp num den * 2 ^ 23 : Nat) ∨ ((2 ^ gridExp num den : Nat) : Int) ∣ u) :
    ((num : Int) - den * (gridQuot num den * 2 ^ gridExp num den : Nat)).natAbs ≤ ((num : Int) - den * u).natAbs ∧
      (((num : Int) - den * (gridQuot num den * 2 ^ gridExp num den : Nat)).natAbs = ((num : Int) - den * u).natAbs →
        u ≠ (gridQuot num den * 2 ^ gridExp num den : Nat) → gridQuot num den % 2 = 0) := by
  have hR : (den : Int) * (gridQuot num den * 2 ^ gridExp num den : Nat) =
      gridQuot num den * (den * 2 ^ gridExp num den : Nat) := by push_cast; ring
  have hnearest := roundHalfEven_nearest num (Nat.mul_pos h (Nat.two_pow_pos (gridExp num den)))
  rw [← gridQuot] at hnearest
  rw [hR]
  by_cases hdvd : ((2 ^ gridExp num den : Nat) : Int) ∣ u
  · obtain ⟨k, rfl⟩ := hdvd
    have hk : (den : Int) * ((2 ^ gridExp num den : Nat) * k) = k * (den * 2 ^ gridExp num den : Nat) := by
      push_cast; ring
    rw [hk]
    obtain ⟨hle, heq⟩ := hnearest k
    refine ⟨hle, fun he hne => heq he fun hkq => hne ?_⟩
    rw [hkq]; push_cast; ring
  · have hlt := hu.resolve_right hdvd
    have hg : 0 < gridExp num den := Nat.pos_of_ne_zero fun hg => hdvd (by simp [hg])
    have hle := gridExp_le hg
    rw [Nat.mul_assoc] at hle
    obtain ⟨hnear, -⟩ := hnearest (2 ^ 23)
    have hbin : (2 ^ 23 : Int) * (den * 2 ^ gridExp num den : Nat) = den * (2 ^ gridExp num den * 2 ^ 23 : Nat) := by
      push_cast; ring
    have hfar : (den : Int) * u < den * (2 ^ gridExp num den * 2 ^ 23 : Nat) :=
      Int.mul_lt_mul_of_pos_left hlt (by omega)
    rw [hbin] at hnear
    omega

/-- The distance of a value from the exact value with sign `neg` is that of its signed copy from the magnitude. -/
theorem natAbs_signed_sub (neg : Bool) (num den : Nat) (u : Int) :
    ((if neg then -(num : Int) else num) - den * u).natAbs = ((num : Int) - den * (if neg then -u else u)).natAbs := by
  cases neg
  · rfl
  · simp only [if_true, Int.mul_neg]; omega

/-- The signed copy of a word's value meets the hypothesis of `gridQuot_nearest_units`. -/
theorem fUnits_signed_lt_or_dvd (neg : Bool) (w : F32) (g : Nat) :
    (if neg then -fUnits w else fUnits w) < (2 ^ g * 2 ^ 23 : Nat) ∨
      ((2 ^ g : Nat) : Int) ∣ (if neg then -fUnits w else fUnits w) := by
  have habs : (if neg then -fUnits w else fUnits w).natAbs = fMag w := by
    rw [← fUnits_natAbs w]; split <;> simp
  obtain hlt | hdvd := fMag_lt_or_dvd w g
  · left; omega
  · right; rwa [Int.natCast_dvd, habs]

/-- Settles O27: against every word's signed value, by `gridQuot_nearest_units`. -/
theorem roundingGivesTheNearestWordTiesToEven : Obligations.RoundingGivesTheNearestWordTiesToEven := by
  intro neg num den h
  refine ⟨rnd32_of_overflow neg h, fun hn => ⟨fFinite_rnd32 neg h hn, fSign_rnd32 neg num den, fun w _ => ?_⟩⟩
  have hsigned : (if neg then -fUnits (rnd32 neg num den) else fUnits (rnd32 neg num den)) =
      (gridQuot num den * 2 ^ gridExp num den : Nat) := by
    rw [fUnits_rnd32, fMag_rnd32 neg h hn]; split <;> simp
  have hne : fUnits w ≠ fUnits (rnd32 neg num den) → (if neg then -fUnits w else fUnits w) ≠
      (if neg then -fUnits (rnd32 neg num den) else fUnits (rnd32 neg num den)) := by
    split <;> simp
  obtain ⟨hle, heven⟩ := gridQuot_nearest_units h (fUnits_signed_lt_or_dvd neg w (gridExp num den))
  rw [← hsigned, ← natAbs_signed_sub, ← natAbs_signed_sub] at hle
  rw [← hsigned, ← natAbs_signed_sub, ← natAbs_signed_sub] at heven
  refine ⟨hle, fun htie hw => ?_⟩
  rw [fFrac_rnd32_mod_two neg h hn]
  exact heven htie (hne hw)

end Sys2Proof.Machine
end

section
/-! PROOF. The arithmetic, the comparisons and the conversions to integers (00_scope.md R11 to R16). -/

namespace Sys2Proof.Machine

open Sys2Proof

/-! ### Arithmetic (R11) -/

section
variable {a b : F32}

theorem arith_of_fIsNaN (h : fIsNaN a = true ∨ fIsNaN b = true) :
    fsub a b = fNaN ∧ fmul a b = fNaN ∧ fdiv a b = fNaN := by
  have hn : (fIsNaN a || fIsNaN b) = true := by simpa using h
  simp [fsub, fmul, fdiv, hn]

variable (ha : fIsNaN a = false) (hb : fIsNaN b = false)
include ha hb

theorem fsub_of_fIsInf_left (hi : fIsInf a = true) :
    fsub a b = if fIsInf b = true ∧ fSign a = fSign b then fNaN else a := by
  simp [fsub, ha, hb, hi, fInf_fSign hi]

theorem fsub_of_fIsInf_right (hi : fIsInf a = false) (hj : fIsInf b = true) : fsub a b = fInf (!fSign b) := by
  simp [fsub, ha, hb, hi, hj]

theorem fsub_of_finite (hi : fIsInf a = false) (hj : fIsInf b = false) :
    fsub a b = if fUnits a = fUnits b then (if a = 0x80000000 ∧ b = 0x00000000 then 0x80000000 else 0x00000000)
      else rnd32 (decide (fUnits a < fUnits b)) (fUnits a - fUnits b).natAbs 1 := by
  have hz : (fIsZero a && fIsZero b && fSign a && !fSign b) = decide (a = fZero true ∧ b = fZero false) := by
    rw [Bool.eq_iff_iff]
    simp only [Bool.and_eq_true, Bool.not_eq_true', decide_eq_true_eq, eq_fZero_iff]
    tauto
  unfold fsub
  rw [hz]
  simp only [ha, hb, hi, hj, Bool.or_self, Bool.false_and, Bool.false_eq_true, if_false, sub_eq_zero, sub_neg]
  congr 1
  by_cases h : a = fZero true ∧ b = fZero false
  · rw [decide_eq_true h]; exact (if_pos h).symm
  · rw [decide_eq_false h]; exact (if_neg h).symm

theorem fmul_of_fIsInf (hi : fIsInf a = true ∨ fIsInf b = true) :
    fmul a b = if fIsZero a = true ∨ fIsZero b = true then fNaN else fInf (fSign a ^^ fSign b) := by
  have hz : (fIsInf a && fIsZero b || fIsZero a && fIsInf b) = (fIsZero a || fIsZero b) := by
    obtain h | h := hi <;> simp [h, fIsZero_false_of_fIsInf h]
  have hi' : (fIsInf a || fIsInf b) = true := by simpa using hi
  simp [fmul, ha, hb, hz, hi']

theorem fmul_of_finite (hi : fIsInf a = false) (hj : fIsInf b = false) :
    fmul a b = rnd32 (fSign a ^^ fSign b) (fMag a * fMag b) (2 ^ 149) := by
  simp [fmul, ha, hb, hi, hj]

theorem fdiv_of_fIsInf_right (hj : fIsInf b = true) :
    fdiv a b = if fIsInf a = true then fNaN else fZero (fSign a ^^ fSign b) := by
  simp [fdiv, ha, hb, hj, fIsZero_false_of_fIsInf hj]

theorem fdiv_of_fIsInf_left (hi : fIsInf a = true) (hj : fIsInf b = false) :
    fdiv a b = fInf (fSign a ^^ fSign b) := by
  simp [fdiv, ha, hb, hi, hj, fIsZero_false_of_fIsInf hi]

theorem fdiv_of_fIsZero_right (hi : fIsInf a = false) (hz : fIsZero b = true) :
    fdiv a b = if fIsZero a then fNaN else fInf (fSign a ^^ fSign b) := by
  simp [fdiv, ha, hb, hi, hz, fIsInf_false_of_fIsZero hz]

theorem fdiv_of_finite (hi : fIsInf a = false) (hj : fIsInf b = false) (hz : fIsZero b = false) :
    fdiv a b = rnd32 (fSign a ^^ fSign b) (fMag a * 2 ^ 149) (fMag b) := by
  simp [fdiv, ha, hb, hi, hj, hz]

end

/-- Settles O28, case by case along the kinds of the operands. -/
theorem arithmeticFollowsItsCases : Obligations.ArithmeticFollowsItsCases := by
  intro a b
  refine ⟨arith_of_fIsNaN, fun ha hb => ⟨fun hi hj => ⟨?_, ?_, ?_⟩, fun hi hj => ⟨?_, ?_, ?_⟩,
    fun hi hj => ⟨fsub_of_fIsInf_right ha hb hi hj, ?_, ?_⟩,
    fun hi hj => ⟨fsub_of_finite ha hb hi hj, fmul_of_finite ha hb hi hj, fun _ => fdiv_of_finite ha hb hi hj,
      fun hz hw => ?_, fdiv_of_fIsZero_right ha hb hi⟩⟩⟩
  · simp [fsub_of_fIsInf_left ha hb hi, hj, fNaN]
  · simp [fdiv_of_fIsInf_right ha hb hj, hi, fNaN]
  · simp [fmul_of_fIsInf ha hb (.inl hi), fIsZero_false_of_fIsInf, hi, hj]
  · simp [fsub_of_fIsInf_left ha hb hi, hj]
  · exact fdiv_of_fIsInf_left ha hb hi hj
  · simp [fmul_of_fIsInf ha hb (.inl hi), fIsZero_false_of_fIsInf, hi, fNaN]
  · simp [fdiv_of_fIsInf_right ha hb hj, hi]
  · simp [fmul_of_fIsInf ha hb (.inr hj), fIsZero_false_of_fIsInf, hj, fNaN]
  · rw [fdiv_of_finite ha hb hi hj hw, (fIsZero_iff a).1 hz, Nat.zero_mul, rnd32_zero]
    exact ((eq_fZero_iff _ _).1 rfl).1

/-! ### Comparisons (R12) -/

theorem compare_of_fIsNaN {a b : F32} (h : fIsNaN a = true ∨ fIsNaN b = true) :
    flt a b = false ∧ fgt a b = false ∧ feq a b = false := by
  obtain h | h := h <;> simp [flt, fgt, feq, h]

theorem flt_iff {a b : F32} (ha : fIsNaN a = false) (hb : fIsNaN b = false) :
    flt a b = true ↔ fUnits a < fUnits b := by simp [flt, ha, hb]

theorem fgt_iff {a b : F32} (ha : fIsNaN a = false) (hb : fIsNaN b = false) :
    fgt a b = true ↔ fUnits b < fUnits a := by simp [fgt, ha, hb]

theorem feq_iff {a b : F32} (ha : fIsNaN a = false) (hb : fIsNaN b = false) :
    feq a b = true ↔ fUnits a = fUnits b := by simp [feq, ha, hb]

theorem compare_of_lt {a b : F32} (ha : fIsNaN a = false) (hb : fIsNaN b = false) (h : fUnits a < fUnits b) :
    flt a b = true ∧ fgt a b = false ∧ feq a b = false := by
  simp [flt, fgt, feq, ha, hb, h, h.le, h.ne]

theorem compare_of_gt {a b : F32} (ha : fIsNaN a = false) (hb : fIsNaN b = false) (h : fUnits b < fUnits a) :
    flt a b = false ∧ fgt a b = true ∧ feq a b = false := by
  simp [flt, fgt, feq, ha, hb, h, h.le, h.ne']

/-- The infinities lie beyond every finite value also in the units of `fUnits`. -/
theorem fUnits_between_infinities {w : F32} (h : fFinite w = true) :
    fUnits 0xFF800000 < fUnits w ∧ fUnits w < fUnits 0x7F800000 := by
  have hm := fMag_le h
  have hpos : fUnits 0x7F800000 = 2 ^ 23 * 2 ^ 254 := by decide
  have hneg : fUnits 0xFF800000 = -(2 ^ 23 * 2 ^ 254) := by decide
  rw [← fUnits_natAbs] at hm
  rw [hpos, hneg]
  omega

/-- Settles O29: all operands but NaNs compare as their units do, the infinities included. -/
theorem comparisonsAreByValue : Obligations.ComparisonsAreByValue := by
  refine ⟨fun a b => compare_of_fIsNaN, fun a b ha hb => ?_, fun a ha => ?_, by decide⟩
  · have ha' := fIsNaN_of_fFinite ha
    have hb' := fIsNaN_of_fFinite hb
    exact ⟨flt_iff ha' hb', fgt_iff ha' hb', feq_iff ha' hb'⟩
  · obtain ⟨hlow, hhigh⟩ := fUnits_between_infinities ha
    have hn := fIsNaN_of_fFinite ha
    have hpos : fIsNaN 0x7F800000 = false := by decide
    have hneg : fIsNaN 0xFF800000 = false := by decide
    simpa only [and_assoc] using And.intro (compare_of_lt hn hpos hhigh) (And.intro (compare_of_gt hn hneg hlow)
      (And.intro (compare_of_gt hpos hn hhigh) (compare_of_lt hneg hn hlow)))

/-! ### Conversions (R13 to R16) -/

/-- An integer of magnitude up to `2^24` lies on its own grid. -/
theorem gridExp_dvd_of_le {n : Nat} (hn : n ≤ 2 ^ 24) : 2 ^ gridExp (n * 2 ^ 149) 1 ∣ n * 2 ^ 149 := by
  have hle := @gridExp_le (n * 2 ^ 149) 1
  generalize gridExp (n * 2 ^ 149) 1 = g at *
  obtain hg | hg | hg : g ≤ 149 ∨ g = 150 ∨ 151 ≤ g := by omega
  · exact Dvd.dvd.mul_left (pow_dvd_pow 2 hg) n
  · have htop : n = 2 ^ 24 := by
      have := hle (by omega)
      rw [hg] at this
      omega
    rw [hg, htop]
    exact Dvd.intro (2 ^ 23) (by norm_num)
  · have hpow : 2 ^ 151 ≤ 2 ^ g := Nat.pow_le_pow_right (by norm_num) hg
    have := hle (by omega)
    omega

theorem i2f_exact {z : Int} (hz : z.natAbs ≤ 2 ^ 24) : fFinite (i2f z) = true ∧ fUnits (i2f z) = z * 2 ^ 149 := by
  have hn : z.natAbs * 2 ^ 149 < 1 * ((2 ^ 25 - 1) * 2 ^ 252) := by omega
  refine ⟨fFinite_rnd32 _ Nat.one_pos hn, ?_⟩
  have hm := fMag_rnd32_exact (decide (z < 0)) Nat.one_pos hn (by simpa using gridExp_dvd_of_le hz)
  rw [Nat.one_mul] at hm
  rw [i2f, fUnits_rnd32, hm]
  by_cases h : z < 0
  · rw [if_pos (decide_eq_true h)]; omega
  · rw [if_neg (by simpa using h)]; omega

/-- Settles O30: the exactness is `i2f_exact`, since integers up to `2^24` lie on their own grid. -/
theorem integerConversionIsExactUpTo24Bits : Obligations.IntegerConversionIsExactUpTo24Bits :=
  ⟨fun _ => rfl, by decide, fun _ => i2f_exact, by decide, by decide⟩

/-- `fTrunc` is the integer that discarding the fraction toward zero gives. -/
theorem fTrunc_unique {x : F32} {T : Int}
    (hpos : 0 ≤ fUnits x → T * 2 ^ 149 ≤ fUnits x ∧ fUnits x < (T + 1) * 2 ^ 149)
    (hneg : fUnits x < 0 → (T - 1) * 2 ^ 149 < fUnits x ∧ fUnits x ≤ T * 2 ^ 149) : fTrunc x = T := by
  unfold fTrunc
  obtain ⟨hs, hu⟩ | ⟨hs, hu⟩ := fUnits_cases x
  · rw [if_pos hs]; omega
  · rw [if_neg (by simp [hs])]; omega

theorem ftruncSat32_of_fFinite {x : F32} (h : fFinite x = true) :
    ftruncSat32 x = if 2 ^ 31 - 1 < fTrunc x then (2 ^ 31 - 1, true)
      else if fTrunc x < -2 ^ 31 then (-2 ^ 31, true) else (fTrunc x, false) := by
  simp [ftruncSat32, fIsNaN_of_fFinite h, fIsInf_of_fFinite h, h]

/-- Settles O31: the integer `T` of the statement is the model's `fTrunc`. -/
theorem truncationGoesTowardZeroAndSaturates : Obligations.TruncationGoesTowardZeroAndSaturates := by
  refine ⟨fun x hx => by simp [ftruncSat32, hx], by decide, by decide, fun x T hx hpos hneg => ?_⟩
  rw [ftruncSat32_of_fFinite hx, fTrunc_unique hpos hneg]

/-- `roundMag` is within half of the exact value; half-way it is the larger (`away`) or the even one (`even`); and it
keeps an integer. -/
theorem roundMag_spec (tie : RoundTie) (mag : Nat) :
    2 * mag ≤ 2 * (roundMag tie mag * 2 ^ 149) + 2 ^ 149 ∧ 2 * (roundMag tie mag * 2 ^ 149) ≤ 2 * mag + 2 ^ 149 ∧
      (2 * mag = 2 * (roundMag tie mag * 2 ^ 149) + 2 ^ 149 ∨ 2 * (roundMag tie mag * 2 ^ 149) = 2 * mag + 2 ^ 149 →
        (tie = .away → mag < roundMag tie mag * 2 ^ 149) ∧ (tie = .even → roundMag tie mag % 2 = 0)) ∧
      (2 ^ 149 ∣ mag → roundMag tie mag * 2 ^ 149 = mag) := by
  unfold roundMag
  split
  · omega
  · split
    · omega
    · cases tie
      · dsimp only
        exact ⟨by omega, by omega, fun _ => ⟨fun _ => by omega, nofun⟩, by omega⟩
      · dsimp only
        split <;> exact ⟨by omega, by omega, fun _ => ⟨nofun, fun _ => by omega⟩, by omega⟩

theorem fround_cases (tie : RoundTie) (x : F32) :
    (fround tie x = -(roundMag tie (fMag x) : Int) ∧ fUnits x = -(fMag x : Int)) ∨
      (fround tie x = roundMag tie (fMag x) ∧ fUnits x = fMag x) := by
  unfold fround fUnits
  cases fSign x <;> simp

/-- Settles O32, from `roundMag_spec` under either sign. -/
theorem roundingToIntegerIsNearestWithTieRule : Obligations.RoundingToIntegerIsNearestWithTieRule := by
  intro tie x _
  obtain ⟨hlow, hup, hhalf, hint⟩ := roundMag_spec tie (fMag x)
  have hdvd := fMag_lt_or_dvd x 149
  have hzeros : fround tie 0x00000000 = 0 ∧ fround tie 0x80000000 = 0 := by cases tie <;> decide
  obtain ⟨hr, hu⟩ | ⟨hr, hu⟩ := fround_cases tie x
  all_goals
    rw [hr, hu]
    refine ⟨by omega, fun h => ?_, by omega, hzeros⟩
    obtain ⟨haway, heven⟩ := hhalf (by omega)
    exact ⟨fun ht => by have := haway ht; omega, fun ht => by have := heven ht; omega⟩

/-- Settles O33, one branch of `clamp8` after the other. -/
theorem clampSaturatesAtBothEnds : Obligations.ClampSaturatesAtBothEnds := by
  intro z
  unfold clamp8
  split
  · omega
  · split <;> omega

end Sys2Proof.Machine
end

section
/-! PROOF. The register map and command words (10_state.md R23, 30_encoding.md R67): an offset and its register, a word
and its two fields. -/

namespace Sys2Proof

/-! ### Register offsets -/

theorem Reg.ofOffset_offset (r : Reg) : Reg.ofOffset r.offset = some r := by
  cases r <;> decide

theorem Reg.offset_of_ofOffset {off : Word} {r : Reg} (h : Reg.ofOffset off = some r) : r.offset = off := by
  simpa using List.find?_some h

theorem Reg.offset_lt_and_aligned (r : Reg) : r.offset.toNat < 0x30 ∧ r.offset.toNat % 4 = 0 := by
  cases r <;> decide

/-- The register map in order: register `k` stands at byte `4 * k`. -/
theorem Reg.offset_all (k : Fin Reg.all.length) : (Reg.all.get k).offset.toNat = 4 * k := by
  revert k
  decide

theorem Reg.isSome_ofOffset_iff (off : Word) :
    (Reg.ofOffset off).isSome = true ↔ off.toNat < 0x30 ∧ off.toNat % 4 = 0 := by
  constructor
  · intro h
    obtain ⟨r, hr⟩ := Option.isSome_iff_exists.1 h
    exact Reg.offset_of_ofOffset hr ▸ r.offset_lt_and_aligned
  · rintro ⟨hlt, haligned⟩
    have hk : off.toNat / 4 < Reg.all.length := by
      rw [show Reg.all.length = 12 from rfl]
      omega
    have hoff : (Reg.all.get ⟨off.toNat / 4, hk⟩).offset = off :=
      BitVec.eq_of_toNat_eq ((Reg.offset_all _).trans (Nat.mul_div_cancel' (Nat.dvd_of_mod_eq_zero haligned)))
    rw [← hoff, Reg.ofOffset_offset]
    rfl

/-- Settles O3, from the three facts about the register map. -/
theorem registerOffsetsDecodeAndEncodeAgree : Obligations.RegisterOffsetsDecodeAndEncodeAgree :=
  ⟨Reg.ofOffset_offset, fun _ _ => Reg.offset_of_ofOffset, Reg.isSome_ofOffset_iff⟩

theorem exists_reg_of_definedOffset {off : Word} (h : definedOffset off = true) : ∃ r, Reg.ofOffset off = some r := by
  rw [← Option.isSome_iff_exists, Reg.isSome_ofOffset_iff]
  simpa [definedOffset] using h

theorem Reg.ofOffset_of_undefined {off : Word} (h : 0x30 ≤ off.toNat ∨ off.toNat % 4 ≠ 0) :
    Reg.ofOffset off = none := by
  rw [← Option.not_isSome_iff_eq_none, Reg.isSome_ofOffset_iff]
  omega

/-! ### Command words -/

theorem word_eq_fields (v : Word) : v = rsvField v ++ opcField v := by
  have h := BitVec.extractLsb'_append_extractLsb'_eq_extractLsb' (x := v) (start₂ := 8) (start₁ := 0) (len₁ := 8)
    (len₂ := 24) rfl
  simpa [rsvField, opcField] using h.symm

/-- Only the word of a command decodes to it. -/
theorem eq_encode_of_decode {v : Word} {i : Instr} (h : decode v = .ok i) : v = encode i := by
  rw [word_eq_fields v]
  unfold decode at h
  split_ifs at h with hrsv hquantize hdeq hdeqb <;> cases h
  · rw [not_not.1 hrsv, hquantize]; rfl
  · rw [not_not.1 hrsv, hdeq]; rfl
  · rw [not_not.1 hrsv, hdeqb]; rfl

end Sys2Proof
end

section
/-! PROOF. What each host operation answers: register accesses by their register, memory accesses inside MEM, and what
a register write leaves unchanged (30_encoding.md R61 to R64). -/

namespace Sys2Proof.Machine

open Sys2Proof

/-! ### Register reads and writes -/

@[simp] theorem writeReg_params (s : State) (r : Reg) (v : Word) : (writeReg s r v).params = s.params := by
  cases r <;> rfl
@[simp] theorem writeReg_status (s : State) (r : Reg) (v : Word) : (writeReg s r v).status = s.status := by
  cases r <;> rfl
@[simp] theorem writeReg_mem (s : State) (r : Reg) (v : Word) : (writeReg s r v).mem = s.mem := by
  cases r <;> rfl
@[simp] theorem writeReg_host (s : State) (r : Reg) (v : Word) : (writeReg s r v).host = s.host := by
  cases r <;> rfl
@[simp] theorem readReg_withScript (s : State) (r : Reg) (ops : List HostOp) :
    readReg (s.withScript ops) r = readReg s r := by
  cases r <;> rfl
theorem writeReg_withScript (s : State) (r : Reg) (v : Word) (ops : List HostOp) :
    writeReg (s.withScript ops) r v = (writeReg s r v).withScript ops := by
  cases r <;> rfl

theorem hostRd_of_some {off : Word} {r : Reg} (h : Reg.ofOffset off = some r) (s : State) :
    hostRd off s = .next (s.withAnswer (readReg s r)) := by
  simp [hostRd, h]

theorem hostRd_of_none {off : Word} (h : Reg.ofOffset off = none) (s : State) :
    hostRd off s = .refused (.undefinedRegister off) := by
  simp [hostRd, h]

theorem hostWr_of_cmd {off : Word} (h : Reg.ofOffset off = some .cmd) (v : Word) (s : State) :
    hostWr off v s = executeCommand v s := by
  simp [hostWr, h]

theorem hostWr_of_some {off : Word} {r : Reg} (h : Reg.ofOffset off = some r) (hr : r ≠ .cmd) (v : Word) (s : State) :
    hostWr off v s = .next (writeReg s r v) := by
  cases r <;> simp [hostWr, h] at hr ⊢

theorem hostWr_of_none {off : Word} (h : Reg.ofOffset off = none) (v : Word) (s : State) :
    hostWr off v s = .refused (.undefinedRegister off) := by
  simp [hostWr, h]

/-! ### Memory accesses -/

theorem hostLd_eq_next {n : AccessWidth} {addr : Word} {s t : State} :
    hostLd n addr s = .next t ↔
      addr.toNat + n.bytes ≤ s.memSize ∧ t = s.withAnswer (Memory.readLE s.mem addr.toNat n) := by
  by_cases h : addr.toNat + n.bytes ≤ s.memSize
  · simp [hostLd, memRead_of_inside h, h, eq_comm]
  · simp [hostLd, memRead_of_outside (Nat.lt_of_not_le h), h]

theorem hostSt_eq_next {n : AccessWidth} {addr : Word} {v : BitVec n.bits} {s t : State} :
    hostSt n addr v s = .next t ↔ addr.toNat + n.bytes ≤ s.memSize ∧
      t = s.withMem (Memory.writeLE s.mem addr.toNat (v.setWidth 32) n.bytes) := by
  by_cases h : addr.toNat + n.bytes ≤ s.memSize
  · simp [hostSt, memWrite_of_inside _ h, h, eq_comm]
  · simp [hostSt, memWrite_of_outside _ (Nat.lt_of_not_le h), h]

end Sys2Proof.Machine
end

section
/-! PROOF. Every step keeps a state legal and leaves the parameters (10_state.md R20, R24, 20_memory.md R40). -/

namespace Sys2Proof.Machine

open Sys2Proof

/-! ### Legal memories -/

/-- MEM in canonical form with every listed byte below `top`: the part of `Inv` that is about memory. -/
def Memory.legal (top : Nat) (m : Memory) : Prop := Memory.wf m ∧ ∀ c ∈ m, c.1 < top

theorem inv_iff (s : State) : Inv s ↔ s.status ∈ legalStatuses ∧ Memory.legal s.memSize s.mem := Iff.rfl

theorem Memory.legal_write {top a : Nat} {m : Memory} (v : Byte) (h : Memory.legal top m) (ha : a < top) :
    Memory.legal top (Memory.write m a v) := by
  obtain ⟨hwf, hlt⟩ := h
  refine ⟨Memory.wf_write a v hwf, fun c hc => ?_⟩
  obtain rfl | hc := Memory.mem_write hc
  · exact ha
  · exact hlt c hc

theorem Memory.legal_writeLE {top a n : Nat} {m : Memory} (v : Word) (h : Memory.legal top m) (ha : a + n ≤ top) :
    Memory.legal top (Memory.writeLE m a v n) := by
  obtain ⟨hwf, hlt⟩ := h
  refine ⟨Memory.wf_writeLE a v n hwf, fun c hc => ?_⟩
  obtain ⟨-, hc⟩ | hc := Memory.mem_writeLE hc
  · omega
  · exact hlt c hc

theorem legal_quantMem {s : State} {scale : F32} {zp : Int} {top k i : Nat} {m : Memory} (h : Memory.legal top m)
    (hin : ∀ j < k, (i8Addr s (i + j)).toNat < top) : Memory.legal top (quantMem s scale zp k i m) := by
  induction k generalizing i m with
  | zero => exact h
  | succ k ih =>
    obtain ⟨hhere, hrest⟩ := forall_lt_succ_shift (P := fun j => (i8Addr s j).toNat < top) |>.1 hin
    exact ih (Memory.legal_write _ h hhere) hrest

theorem legal_deqMem {s : State} {top k i : Nat} {m : Memory} (h : Memory.legal top m)
    (hin : ∀ j < k, (f32Addr s (i + j)).toNat + 4 ≤ top) : Memory.legal top (deqMem s k i m) := by
  induction k generalizing i m with
  | zero => exact h
  | succ k ih =>
    obtain ⟨hhere, hrest⟩ := forall_lt_succ_shift (P := fun j => (f32Addr s j).toNat + 4 ≤ top) |>.1 hin
    exact ih (Memory.legal_writeLE _ h hhere) hrest

/-! ### What every transition keeps -/

/-- What every transition from `s` to `t` keeps: the parameters stay, `STATUS` stays or takes one of its values, and a
legal memory stays legal. -/
structure KeepsLegal (s t : State) : Prop where
  params : t.params = s.params
  status : t.status = s.status ∨ t.status ∈ legalStatuses
  mem : Memory.legal s.memSize s.mem → Memory.legal s.memSize t.mem

theorem KeepsLegal.inv {s t : State} (h : KeepsLegal s t) (hs : Inv s) : Inv t := by
  obtain ⟨hstatus, hmem⟩ := (inv_iff s).1 hs
  have hsize : t.memSize = s.memSize := congrArg Params.memSize h.params
  rw [inv_iff, hsize]
  exact ⟨h.status.elim (fun e => e ▸ hstatus) id, h.mem hmem⟩

theorem KeepsLegal.of_eq {s t : State} (hparams : t.params = s.params) (hstatus : t.status = s.status)
    (hmem : t.mem = s.mem) : KeepsLegal s t :=
  ⟨hparams, .inl hstatus, fun h => hmem ▸ h⟩

theorem statusWord_error_legal (k : ErrorKind) : statusWord k.code true false ∈ legalStatuses := by
  cases k <;> decide

theorem statusWord_done_legal (nv : Bool) : statusWord 0 true nv ∈ legalStatuses := by
  cases nv <;> decide

theorem raiseError_keepsLegal (s : State) (k : ErrorKind) : KeepsLegal s (raiseError s k) where
  params := rfl
  status := .inr (statusWord_error_legal k)
  mem := id

/-- A command that completes writes `STATUS` last, so only what it did to the parameters and to memory matters. -/
theorem completeCommand_keepsLegal {s t : State} (nv : Bool) (hparams : t.params = s.params)
    (hmem : Memory.legal s.memSize s.mem → Memory.legal s.memSize t.mem) : KeepsLegal s (completeCommand t nv) where
  params := hparams
  status := .inr (statusWord_done_legal nv)
  mem := hmem

/-! ### Commands -/

theorem quantized_keepsLegal {s : State} {n : Nat} (hin : accessesInside s n) : KeepsLegal s (quantized s n) :=
  completeCommand_keepsLegal _ rfl fun h =>
    legal_quantMem h fun j hj => by rw [Nat.zero_add]; exact (hin j hj).2

theorem execQuantize_keepsLegal {s t : State} (h : execQuantize s = .next t) : KeepsLegal s t := by
  obtain ⟨-, rfl⟩ | ⟨-, -, rfl⟩ | ⟨-, -, hin, rfl⟩ := execQuantize_eq_next h
  · exact raiseError_keepsLegal s _
  · exact raiseError_keepsLegal s _
  · exact quantized_keepsLegal hin

theorem execDeq_keepsLegal {s t : State} (h : execDeq s = .next t) : KeepsLegal s t := by
  obtain rfl := Host.Outcome.next.inj ((execDeq_eq s).symm.trans h)
  split
  · exact completeCommand_keepsLegal _ rfl id
  · exact raiseError_keepsLegal s _

theorem execDeqb_keepsLegal {s t : State} (h : execDeqb s = .next t) : KeepsLegal s t := by
  obtain ⟨-, rfl⟩ | ⟨-, -, rfl⟩ | ⟨-, -, hin, rfl⟩ := execDeqb_eq_next h
  · exact raiseError_keepsLegal s _
  · exact raiseError_keepsLegal s _
  · exact completeCommand_keepsLegal _ rfl fun h =>
      legal_deqMem h fun j hj => by rw [Nat.zero_add]; exact (hin j hj).1

theorem exec_keepsLegal {i : Instr} {s t : State} (h : exec i s = .next t) : KeepsLegal s t := by
  cases i with
  | quantize => exact execQuantize_keepsLegal h
  | deq => exact execDeq_keepsLegal h
  | deqb => exact execDeqb_keepsLegal h

theorem executeCommand_keepsLegal {v : Word} {s t : State} (h : executeCommand v s = .next t) : KeepsLegal s t := by
  unfold executeCommand at h
  split at h
  · exact exec_keepsLegal h
  · obtain rfl := Host.Outcome.next.inj h
    exact raiseError_keepsLegal s _

/-! ### Host operations -/

theorem hostRd_keepsLegal {off : Word} {s t : State} (h : hostRd off s = .next t) : KeepsLegal s t := by
  cases hr : Reg.ofOffset off with
  | none => rw [hostRd_of_none hr] at h; cases h
  | some r =>
    obtain rfl := Host.Outcome.next.inj ((hostRd_of_some hr s).symm.trans h)
    exact .of_eq rfl rfl rfl

theorem hostWr_keepsLegal {off v : Word} {s t : State} (h : hostWr off v s = .next t) : KeepsLegal s t := by
  cases hr : Reg.ofOffset off with
  | none => rw [hostWr_of_none hr] at h; cases h
  | some r =>
    by_cases hc : r = .cmd
    · exact executeCommand_keepsLegal ((hostWr_of_cmd (hc ▸ hr) v s).symm.trans h)
    · obtain rfl := Host.Outcome.next.inj ((hostWr_of_some hr hc v s).symm.trans h)
      exact .of_eq (writeReg_params s r v) (writeReg_status s r v) (writeReg_mem s r v)

theorem performOp_keepsLegal {op : HostOp} {s t : State} (h : performOp op s = .next t) : KeepsLegal s t := by
  cases op with
  | rd off => exact hostRd_keepsLegal h
  | wr off v => exact hostWr_keepsLegal h
  | ld n addr =>
    obtain ⟨-, rfl⟩ := hostLd_eq_next.1 h
    exact .of_eq rfl rfl rfl
  | st n addr v =>
    obtain ⟨hin, rfl⟩ := hostSt_eq_next.1 h
    exact ⟨rfl, .inl rfl, fun hm => Memory.legal_writeLE _ hm hin⟩
  | reset =>
    obtain rfl := Host.Outcome.next.inj h
    exact ⟨rfl, .inr List.mem_cons_self, id⟩

theorem step_nil {s : State} (h : s.host.script = []) : step s = .next s := by
  unfold step stepHost
  rw [h]

theorem step_keepsLegal {s t : State} (h : step s = .next t) : KeepsLegal s t := by
  cases hs : s.host.script with
  | nil =>
    obtain rfl := Host.Outcome.next.inj ((step_nil hs).symm.trans h)
    exact .of_eq rfl rfl rfl
  | cons op rest =>
    obtain ⟨hparams, hstatus, hmem⟩ := performOp_keepsLegal ((step_cons hs).symm.trans h)
    exact ⟨hparams, hstatus, hmem⟩

/-- Settles O54, from what every transition keeps. -/
theorem everyStepKeepsTheStateLegal : Obligations.EveryStepKeepsTheStateLegal :=
  fun _ _ hs h => (step_keepsLegal h).inv hs

/-- Settles O55, from what every transition keeps. -/
theorem everyStepKeepsTheParameters : Obligations.EveryStepKeepsTheParameters :=
  fun _ _ h => (step_keepsLegal h).params

/-- Settles O53: reset clears `STATUS` and nothing has been written to MEM. -/
theorem resetStateIsLegal : Obligations.ResetStateIsLegal :=
  ⟨by decide, Memory.wf_reset, fun _ hc => absurd hc List.not_mem_nil⟩

end Sys2Proof.Machine
end

section
/-! PROOF. Which host operations complete, what a register write and read give, and which are refused (10_state.md R23,
R25, R32, 20_memory.md R42, 70_reset_and_hazards.md R166). -/

namespace Sys2Proof.Machine

open Sys2Proof

/-! ### Operations within the host's contract -/

theorem State.memSize_le (s : State) : s.memSize ≤ 2 ^ 32 := s.params.memTop.isLt

/-- Buffers inside MEM do not wrap, so every element access lies inside MEM. -/
theorem accessesInside_of_buffers {s : State} {n : Nat} (hf : s.f32Base.toNat + 4 * n ≤ s.memSize)
    (hi : s.i8Base.toNat + n ≤ s.memSize) : accessesInside s n := by
  intro i hlt
  have hsize := s.memSize_le
  simp only [f32Addr, i8Addr, BitVec.toNat_ofNat]
  rw [Nat.mod_eq_of_lt (by omega), Nat.mod_eq_of_lt (by omega)]
  omega

/-- The buffers of a command whose lengths pass the check are inside MEM (70_reset_and_hazards.md R166). -/
def BuffersWithinContract (s : State) : Prop := s.f32Len = s.i8Len → f32BufferInside s ∧ i8BufferInside s

theorem BuffersWithinContract.accessesInside {s : State} (h : BuffersWithinContract s) (hl : s.f32Len = s.i8Len) :
    accessesInside s s.f32Len.toNat := by
  obtain ⟨hf, hi⟩ := h hl
  exact accessesInside_of_buffers hf (hl ▸ hi)

theorem execQuantize_of_empty {s : State} (h : s.f32Len = 0) : execQuantize s = .next (raiseError s .emptyInput) :=
  if_pos h

theorem execQuantize_of_mismatch {s : State} (h0 : s.f32Len ≠ 0) (hl : s.f32Len ≠ s.i8Len) :
    execQuantize s = .next (raiseError s .lengthMismatch) :=
  (if_neg h0).trans (if_pos hl)

theorem execDeqb_of_invalidScale {s : State} (h : validScale s.scale = false) :
    execDeqb s = .next (raiseError s .invalidScale) :=
  if_neg (by simp [h])

theorem execDeqb_of_mismatch {s : State} (hv : validScale s.scale = true) (hl : s.i8Len ≠ s.f32Len) :
    execDeqb s = .next (raiseError s .lengthMismatch) :=
  (if_pos hv).trans (if_pos hl)

theorem execQuantize_completes {s : State} (h : BuffersWithinContract s) : ∃ t, execQuantize s = .next t := by
  by_cases h0 : s.f32Len = 0
  · exact ⟨_, execQuantize_of_empty h0⟩
  · by_cases hl : s.f32Len = s.i8Len
    · exact ⟨_, execQuantize_of_inside h0 hl (h.accessesInside hl)⟩
    · exact ⟨_, execQuantize_of_mismatch h0 hl⟩

theorem execDeqb_completes {s : State} (h : BuffersWithinContract s) : ∃ t, execDeqb s = .next t := by
  cases hv : validScale s.scale with
  | false => exact ⟨_, execDeqb_of_invalidScale hv⟩
  | true =>
    by_cases hl : s.i8Len = s.f32Len
    · exact ⟨_, execDeqb_of_inside hv hl (hl ▸ h.accessesInside hl.symm)⟩
    · exact ⟨_, execDeqb_of_mismatch hv hl⟩

theorem executeCommand_completes {s : State} {v : Word} (h : commandInside s v) :
    ∃ t, executeCommand v s = .next t := by
  unfold executeCommand
  cases hd : decode v with
  | error e => exact ⟨_, rfl⟩
  | ok i =>
    have hv := eq_encode_of_decode hd
    cases i with
    | quantize => exact execQuantize_completes (h (.inl hv))
    | deq => exact ⟨_, execDeq_eq s⟩
    | deqb => exact execDeqb_completes (h (.inr hv))

theorem performOp_completes {s : State} {op : HostOp} (h : withinContract s op) : ∃ t, performOp op s = .next t := by
  cases op with
  | rd off =>
    obtain ⟨r, hr⟩ := exists_reg_of_definedOffset h
    exact ⟨_, hostRd_of_some hr s⟩
  | wr off v =>
    obtain ⟨hdef, hcmd⟩ := h
    obtain ⟨r, hr⟩ := exists_reg_of_definedOffset hdef
    by_cases hc : r = .cmd
    · subst hc
      obtain ⟨t, ht⟩ := executeCommand_completes (hcmd (Reg.offset_of_ofOffset hr).symm)
      exact ⟨t, (hostWr_of_cmd hr v s).trans ht⟩
    · exact ⟨_, hostWr_of_some hr hc v s⟩
  | ld n addr => exact ⟨_, hostLd_eq_next.2 ⟨h, rfl⟩⟩
  | st n addr v => exact ⟨_, hostSt_eq_next.2 ⟨h, rfl⟩⟩
  | reset => exact ⟨_, rfl⟩

theorem withinContract_withScript (s : State) (ops : List HostOp) (op : HostOp) :
    withinContract (s.withScript ops) op ↔ withinContract s op := by
  cases op <;> exact Iff.rfl

/-- Settles O56, one kind of operation after the other. -/
theorem operationWithinContractCompletes : Obligations.OperationWithinContractCompletes := by
  intro s op rest hs hop
  rw [step_cons hs]
  exact performOp_completes ((withinContract_withScript s rest op).2 hop)

/-! ### A register written and read back -/

theorem run_succ_of_next {s t : State} (k : Nat) (h : step s = .next t) : core.run (k + 1) s = core.run k t := by
  have hcore : core.step s = .next t := h
  simp only [Host.Core.run, hcore]

/-- The answer to a read of a register straight after a write to it. -/
theorem run_wr_rd_answers {s : State} {r : Reg} {v : Word} {rest : List HostOp} (hr : r ≠ .cmd)
    (h : s.host.script = .wr r.offset v :: .rd r.offset :: rest) :
    ∃ t : State, core.run 2 s = .next t ∧ t.host.answers = s.host.answers ++ [readReg (writeReg s r v) r] := by
  have hoff := Reg.ofOffset_offset r
  have hwr : step s = .next ((writeReg s r v).withScript (.rd r.offset :: rest)) := by
    rw [step_cons h, ← writeReg_withScript]
    exact hostWr_of_some hoff hr v _
  have hrd : step ((writeReg s r v).withScript (.rd r.offset :: rest)) =
      .next (((writeReg s r v).withScript rest).withAnswer (readReg (writeReg s r v) r)) := by
    rw [step_cons (State.withScript_script _ _), ← readReg_withScript (writeReg s r v) r rest]
    exact hostRd_of_some hoff _
  refine ⟨_, (run_succ_of_next 1 hwr).trans (run_succ_of_next 0 hrd), ?_⟩
  simp

/-- 10_state.md R25: the two hardwired bits read as zero. -/
theorem toNat_readReg_writeReg_f32Base (s : State) (v : Word) :
    (readReg (writeReg s .f32Base v) .f32Base).toNat = v.toNat / 4 * 4 := by
  have hv := v.isLt
  have hread : readReg (writeReg s .f32Base v) .f32Base = v.extractLsb' 2 30 ++ 0#2 := rfl
  rw [hread, BitVec.toNat_append]
  simp only [BitVec.extractLsb'_toNat, Nat.shiftLeft_eq, Nat.shiftRight_eq_div_pow, BitVec.toNat_ofNat,
    Nat.zero_mod, Nat.or_zero]
  omega

/-- 10_state.md R32: the stored low byte reads back sign-extended. -/
theorem toInt_readReg_writeReg_dqCode (s : State) (v : Word) :
    (readReg (writeReg s .dqCode v) .dqCode).toInt = (v.extractLsb' 0 8).toInt :=
  BitVec.toInt_signExtend_of_le (by norm_num)

/-- Settles O10, from the answer to a read straight after a write and the two registers' stored bits. -/
theorem hardwiredAndNarrowRegistersReadBack : Obligations.HardwiredAndNarrowRegistersReadBack := by
  intro s v rest
  constructor <;> intro h
  · obtain ⟨t, hrun, hans⟩ := run_wr_rd_answers (r := .f32Base) (by decide) h
    exact ⟨t, _, hrun, hans, toNat_readReg_writeReg_f32Base s v⟩
  · obtain ⟨t, hrun, hans⟩ := run_wr_rd_answers (r := .dqCode) (by decide) h
    exact ⟨t, _, hrun, hans, toInt_readReg_writeReg_dqCode s v⟩

/-! ### Undefined offsets -/

/-- Settles O16: the register map has no register there, so either access is refused. -/
theorem undefinedRegisterOffsetIsRefused : Obligations.UndefinedRegisterOffsetIsRefused := by
  intro s off v rest hoff
  have hnone := Reg.ofOffset_of_undefined hoff
  exact ⟨fun h => (step_cons h).trans (hostRd_of_none hnone _),
    fun h => (step_cons h).trans (hostWr_of_none hnone v _)⟩

end Sys2Proof.Machine
end

section
/-! PROOF. Where an access reaches outside MEM the machine stops, and a load gives back what a store of its width left
(20_memory.md R42, R44, R45). -/

namespace Sys2Proof.Machine

open Sys2Proof

/-! ### Accesses outside MEM -/

/-- An access has only one way to fail (log 11). -/
theorem eq_outsideMemory_of_ne_ok {α : Type} {r : Except Fault α} (h : ∀ a, r ≠ .ok a) : r = .error .outsideMemory :=
  match r, h with
  | .error .outsideMemory, _ => rfl
  | .ok a, h => absurd rfl (h a)

theorem execQuantize_of_outside {s : State} (hpos : 0 < s.f32Len.toNat) (hl : s.f32Len = s.i8Len)
    (hout : ¬ accessesInside s s.f32Len.toNat) : execQuantize s = .fault .outsideMemory := by
  have h0 : s.f32Len ≠ 0 := fun h => by simp [h] at hpos
  have hbuf : quantizeBuffer s s.f32Len.toNat = .error .outsideMemory :=
    eq_outsideMemory_of_ne_ok fun t ht => hout ((quantizeBuffer_eq_ok hpos).1 ht).1
  unfold execQuantize
  rw [if_neg h0, if_neg (not_not.2 hl), hbuf]

theorem execDeqb_of_outside {s : State} (hv : validScale s.scale = true) (hl : s.i8Len = s.f32Len)
    (hout : ¬ accessesInside s s.i8Len.toNat) : execDeqb s = .fault .outsideMemory := by
  have hloop : deqLoop s.i8Len.toNat 0 s = .error .outsideMemory :=
    eq_outsideMemory_of_ne_ok fun t ht => hout <| by simpa only [Nat.zero_add] using (deqLoop_eq_ok.1 ht).1
  unfold execDeqb
  rw [if_pos hv, if_neg (not_not.2 hl), hloop]

theorem not_accessesInside {s : State} {i n : Nat} (hi : i < n)
    (hout : s.memSize < (f32Addr s i).toNat + 4 ∨ s.memSize < (i8Addr s i).toNat + 1) : ¬ accessesInside s n := by
  intro hin
  obtain ⟨hf, hc⟩ := hin i hi
  omega

/-- Settles O15: either command answers only where every element access is inside MEM, and can stop in one way only. -/
theorem engineAccessOutsideMemoryStops : Obligations.EngineAccessOutsideMemoryStops := by
  intro s i hl hi hout
  have hnot := not_accessesInside hi hout
  exact ⟨execQuantize_of_outside (Nat.zero_lt_of_lt hi) hl hnot,
    fun hv => execDeqb_of_outside hv hl.symm (hl ▸ hnot)⟩

theorem hostLd_of_outside {s : State} {n : AccessWidth} {addr : Word} (h : s.memSize < addr.toNat + n.bytes) :
    hostLd n addr s = .fault .outsideMemory := by
  unfold hostLd
  rw [memRead_of_outside h]

theorem hostSt_of_outside {s : State} {n : AccessWidth} {addr : Word} (v : BitVec n.bits)
    (h : s.memSize < addr.toNat + n.bytes) : hostSt n addr v s = .fault .outsideMemory := by
  unfold hostSt
  rw [memWrite_of_outside _ h]

/-- Settles O14, a load and a store apart. -/
theorem hostAccessOutsideMemoryStops : Obligations.HostAccessOutsideMemoryStops := by
  intro s n addr v rest hout
  exact ⟨fun h => (step_cons h).trans (hostLd_of_outside hout),
    fun h => (step_cons h).trans (hostSt_of_outside v hout)⟩

/-! ### A load after a store -/

/-- The bytes a little-endian write leaves join again to the low `n` bytes of its word. -/
theorem Memory.readLE_writeLE (m : Memory) (a : Nat) (v : Word) (n : AccessWidth) :
    Memory.readLE (Memory.writeLE m a v n.bytes) a n = (v.setWidth n.bits).setWidth 32 := by
  have hbyte : ∀ k < n.bytes, Memory.byte (Memory.writeLE m a v n.bytes) (a + k) = v.extractLsb' (8 * k) 8 := by
    intro k hk
    rw [Memory.byte_writeLE, if_pos (by omega), Nat.add_sub_cancel_left]
  have hlow : Memory.byte (Memory.writeLE m a v n.bytes) a = v.extractLsb' 0 8 := hbyte 0 (by cases n <;> decide)
  cases n with
  | w1 => rw [Memory.readLE, hlow, AccessWidth.bits, BitVec.setWidth_eq_extractLsb' (x := v) (by decide)]
  | w2 =>
    rw [Memory.readLE, hlow, hbyte 1 (by decide),
      BitVec.extractLsb'_append_extractLsb'_eq_extractLsb' (start₂ := 8) (start₁ := 0) rfl,
      AccessWidth.bits, BitVec.setWidth_eq_extractLsb' (x := v) (by decide)]
  | w4 =>
    rw [Memory.readLE, hlow, hbyte 1 (by decide), hbyte 2 (by decide), hbyte 3 (by decide),
      BitVec.extractLsb'_append_extractLsb'_eq_extractLsb' (start₂ := 24) (start₁ := 16) rfl,
      BitVec.extractLsb'_append_extractLsb'_eq_extractLsb' (start₂ := 16) (start₁ := 8) rfl,
      BitVec.extractLsb'_append_extractLsb'_eq_extractLsb' (start₂ := 8) (start₁ := 0) rfl,
      AccessWidth.bits, BitVec.setWidth_eq, BitVec.setWidth_eq, BitVec.extractLsb'_eq_self]

theorem accessWidth_bits_le (n : AccessWidth) : n.bits ≤ 32 := by
  cases n <;> decide

theorem step_ld_of_inside {s : State} {n : AccessWidth} {addr : Word} {rest : List HostOp}
    (h : s.host.script = .ld n addr :: rest) (hin : addr.toNat + n.bytes ≤ s.memSize) :
    step s = .next ((s.withScript rest).withAnswer (Memory.readLE s.mem addr.toNat n)) :=
  (step_cons h).trans (hostLd_eq_next.2 ⟨hin, rfl⟩)

theorem step_st_of_inside {s : State} {n : AccessWidth} {addr : Word} {v : BitVec n.bits} {rest : List HostOp}
    (h : s.host.script = .st n addr v :: rest) (hin : addr.toNat + n.bytes ≤ s.memSize) :
    step s = .next ((s.withScript rest).withMem (Memory.writeLE s.mem addr.toNat (v.setWidth 32) n.bytes)) :=
  (step_cons h).trans (hostSt_eq_next.2 ⟨hin, rfl⟩)

/-- The answer to a load straight after a store of the same width at the same address. -/
theorem run_st_ld_answers {s : State} {n : AccessWidth} {addr : Word} {v : BitVec n.bits} {rest : List HostOp}
    (h : s.host.script = .st n addr v :: .ld n addr :: rest) (hin : addr.toNat + n.bytes ≤ s.memSize) :
    ∃ t : State, core.run 2 s = .next t ∧ t.host.answers = s.host.answers ++
      [Memory.readLE (Memory.writeLE s.mem addr.toNat (v.setWidth 32) n.bytes) addr.toNat n] := by
  have hst := step_st_of_inside h hin
  exact ⟨_, (run_succ_of_next 1 hst).trans (run_succ_of_next 0 (step_ld_of_inside rfl hin)), rfl⟩

/-- Settles O13: the load reads back the word the store wrote, cut to the datum's width and extended again. -/
theorem storeThenLoadReturnsTheValue : Obligations.StoreThenLoadReturnsTheValue := by
  intro s n addr v rest h hin
  obtain ⟨t, hrun, hans⟩ := run_st_ld_answers h hin
  refine ⟨t, _, hrun, hans, ?_⟩
  rw [Memory.readLE_writeLE, BitVec.setWidth_setWidth_of_le v (accessWidth_bits_le n), BitVec.setWidth_eq,
    BitVec.toNat_setWidth_of_le (accessWidth_bits_le n)]

end Sys2Proof.Machine
end

section
/-! PROOF. Command words and what a step on the script performs: decoding against encoding, legal and illegal words,
register reads and writes (30_encoding.md R60 to R62, R67 to R70). -/

namespace Sys2Proof

/-! ### Decoding by fields -/

/-- The fields of a command's word, and that the command is well formed. -/
theorem encodedFields (i : Instr) : Laws.EncodedFields.Statement i := by
  cases i with
  | quantize => exact Laws.EncodedFields.quantize
  | deq => exact Laws.EncodedFields.deq
  | deqb => exact Laws.EncodedFields.deqb

theorem decode_of_fields {v : Word} {i : Instr} (hrsv : rsvField v = 0) (hopc : opcField v = opcode i) :
    decode v = .ok i := by
  unfold decode
  rw [if_neg (not_not.2 hrsv), hopc]
  cases i <;> rfl

theorem decode_encode (i : Instr) : decode (encode i) = .ok i := by
  obtain ⟨-, hrsv, hopc⟩ := encodedFields i
  exact decode_of_fields hrsv hopc

/-- A word decodes to a command exactly when `RSV` is zero and `OPC` holds the command's operation code. -/
theorem decode_eq_ok_iff {v : Word} {i : Instr} : decode v = .ok i ↔ rsvField v = 0 ∧ opcField v = opcode i := by
  constructor
  · intro h
    obtain ⟨-, hrsv, hopc⟩ := encodedFields i
    rw [eq_encode_of_decode h]
    exact ⟨hrsv, hopc⟩
  · rintro ⟨hrsv, hopc⟩
    exact decode_of_fields hrsv hopc

/-- Settles O2, from the fields of a command's word and that no other word decodes to the command. -/
theorem decodeAndEncodeAgree : Obligations.DecodeAndEncodeAgree :=
  ⟨fun i _ => decode_encode i, fun _ i h => ⟨(encodedFields i).1, (eq_encode_of_decode h).symm⟩⟩

theorem decodeTableWord_eq_some {nbits w : Nat} {i : Instr} (h : decodeTableWord nbits w = some i) :
    decode (tableWord nbits w) = .ok i := by
  unfold decodeTableWord at h
  split at h
  · rename_i j hj
    rw [hj, Option.some.inj h]
  · cases h

theorem decodeTableWord_of_decode {nbits w : Nat} {i : Instr} (h : decode (tableWord nbits w) = .ok i) :
    decodeTableWord nbits w = some i := by
  unfold decodeTableWord
  rw [h]

/-- Settles O1: the three words are the encodings of the three commands. -/
theorem tableWordsDecodeToTheirCommands : Obligations.TableWordsDecodeToTheirCommands :=
  ⟨decode_encode .quantize, decode_encode .deq, decode_encode .deqb,
    decodeTableWord_of_decode (decode_encode .quantize), decodeTableWord_of_decode (decode_encode .deq),
    decodeTableWord_of_decode (decode_encode .deqb)⟩

end Sys2Proof

namespace Sys2Proof.Machine

open Sys2Proof

/-! ### Executing a command word -/

theorem executeCommand_of_decode {v : Word} {i : Instr} (h : decode v = .ok i) (s : State) :
    executeCommand v s = exec i s := by
  unfold executeCommand
  rw [h]

theorem executeCommand_of_undecodable {v : Word} (h : ∀ i, decode v ≠ .ok i) (s : State) :
    executeCommand v s = .next (raiseError s .illegalCommand) := by
  unfold executeCommand
  cases hd : decode v with
  | ok i => exact absurd hd (h i)
  | error e => rfl

theorem step_wr_cmd {s : State} {v : Word} {rest : List HostOp} (h : s.host.script = .wr Reg.cmd.offset v :: rest) :
    step s = executeCommand v (s.withScript rest) :=
  (step_cons h).trans (hostWr_of_cmd (Reg.ofOffset_offset .cmd) v _)

theorem step_withFetchWord (s : State) (nbits w : Nat) :
    step (s.withFetchWord nbits w) = executeCommand (tableWord nbits w) s :=
  step_wr_cmd (State.withScript_script s _)

/-- Settles O4: the next step executes the word, and executing a word that decodes is executing its command. -/
theorem stepRunsTheDecodedCommand : Obligations.StepRunsTheDecodedCommand :=
  ⟨fun s _ rest _ h hd _ => (step_wr_cmd h).trans (executeCommand_of_decode hd (s.withScript rest)),
    fun s nbits w _ h => (step_withFetchWord s nbits w).trans (executeCommand_of_decode (decodeTableWord_eq_some h) s)⟩

theorem raiseError_illegalCommand (s : State) : raiseError s .illegalCommand = s.withStatus 0x00000014 := rfl

/-- Settles O6: only the words 1, 2 and 3 are encodings of commands. -/
theorem illegalCommandChangesOnlyStatus : Obligations.IllegalCommandChangesOnlyStatus := by
  intro s v rest h hquantize hdeq hdeqb
  have hnone : ∀ i, decode v ≠ .ok i := by
    intro i hd
    have hv := eq_encode_of_decode hd
    cases i with
    | quantize => exact hquantize hv
    | deq => exact hdeq hv
    | deqb => exact hdeqb hv
  rw [step_wr_cmd h, executeCommand_of_undecodable hnone, raiseError_illegalCommand]

/-! ### Steps without a command -/

/-- Settles O7. -/
theorem nothingHappensBetweenHostOperations : Obligations.NothingHappensBetweenHostOperations :=
  fun _ h => step_nil h

theorem step_rd {s : State} {r : Reg} {rest : List HostOp} (h : s.host.script = .rd r.offset :: rest) :
    step s = .next ((s.withScript rest).withAnswer (readReg s r)) := by
  rw [← readReg_withScript s r rest]
  exact (step_cons h).trans (hostRd_of_some (Reg.ofOffset_offset r) _)

theorem step_wr {s : State} {r : Reg} {v : Word} {rest : List HostOp} (h : s.host.script = .wr r.offset v :: rest)
    (hr : r ≠ .cmd) : step s = .next (writeReg (s.withScript rest) r v) :=
  (step_cons h).trans (hostWr_of_some (Reg.ofOffset_offset r) hr v _)

/-- Settles O8: the answer is `readReg`, whose arms are those of the statement. -/
theorem registerReadAnswersItsContent : Obligations.RegisterReadAnswersItsContent := by
  intro s r rest h
  rw [step_rd h]
  cases r <;> rfl

/-- Settles O9: at `CMD` the word is executed, and elsewhere the write is `writeReg`, whose arms are those of the
statement. -/
theorem registerWriteChangesOnlyItsRegister : Obligations.RegisterWriteChangesOnlyItsRegister := by
  intro s r v rest h
  by_cases hr : r = .cmd
  · subst hr
    exact step_wr_cmd h
  · rw [step_wr h hr]
    cases r with
    | cmd => exact absurd rfl hr
    | _ => rfl

end Sys2Proof.Machine
end

section
/-! PROOF. Loads and stores inside MEM byte by byte, and the words `fillf32` leaves (20_memory.md R44, R45,
30_encoding.md R63, R64, R75). -/

namespace Sys2Proof.Machine

open Sys2Proof

/-! ### Loads -/

theorem toNat_readLE_w1 (m : Memory) (a : Nat) : (Memory.readLE m a .w1).toNat = (Memory.byte m a).toNat :=
  BitVec.toNat_setWidth_of_le (by decide)

theorem toNat_byte_append {n : Nat} (hi : BitVec n) (lo : Byte) : (hi ++ lo).toNat = lo.toNat + 2 ^ 8 * hi.toNat := by
  rw [BitVec.toNat_append, ← Nat.shiftLeft_add_eq_or_of_lt lo.isLt, Nat.shiftLeft_eq]
  omega

theorem toNat_readLE_w2 (m : Memory) (a : Nat) :
    (Memory.readLE m a .w2).toNat = (Memory.byte m a).toNat + 2 ^ 8 * (Memory.byte m (a + 1)).toNat := by
  rw [Memory.readLE, BitVec.toNat_setWidth_of_le (by decide), toNat_byte_append]

theorem toNat_readLE_w4 (m : Memory) (a : Nat) :
    (Memory.readLE m a .w4).toNat = (Memory.byte m a).toNat + 2 ^ 8 * (Memory.byte m (a + 1)).toNat +
      2 ^ 16 * (Memory.byte m (a + 2)).toNat + 2 ^ 24 * (Memory.byte m (a + 3)).toNat := by
  rw [Memory.readLE, toNat_byte_append, toNat_byte_append, toNat_byte_append]
  omega

/-- Settles O11, the three widths apart. -/
theorem loadAnswersLittleEndianValue : Obligations.LoadAnswersLittleEndianValue := by
  intro s n addr rest h hin
  refine ⟨_, step_ld_of_inside h hin, ?_⟩
  cases n with
  | w1 => exact toNat_readLE_w1 _ _
  | w2 => exact toNat_readLE_w2 _ _
  | w4 => exact toNat_readLE_w4 _ _

/-! ### Stores -/

theorem Memory.byte_writeLE_at {n k : Nat} (m : Memory) (a : Nat) (v : Word) (hk : k < n) :
    Memory.byte (Memory.writeLE m a v n) (a + k) = v.extractLsb' (8 * k) 8 := by
  rw [Memory.byte_writeLE, if_pos (by omega), Nat.add_sub_cancel_left]

theorem Memory.byte_writeLE_outside {a n x : Nat} (m : Memory) (v : Word) (h : x < a ∨ a + n ≤ x) :
    Memory.byte (Memory.writeLE m a v n) x = Memory.byte m x := by
  rw [Memory.byte_writeLE, if_neg (by omega)]

/-- Extending a datum to 32 bits keeps its bytes. -/
theorem extractLsb'_setWidth_byte {w k : Nat} (v : BitVec w) (hk : 8 * k + 8 ≤ 32) :
    (v.setWidth 32).extractLsb' (8 * k) 8 = v.extractLsb' (8 * k) 8 := by
  apply BitVec.eq_of_getLsbD_eq
  intro i hi
  simp only [BitVec.getLsbD_extractLsb', BitVec.getLsbD_setWidth, show 8 * k + i < 32 by omega, decide_true,
    Bool.true_and]

theorem accessWidth_bytes_le (n : AccessWidth) : n.bytes ≤ 4 := by
  cases n <;> decide

/-- Settles O12, from the bytes of a little-endian write. -/
theorem storeWritesExactlyItsBytes : Obligations.StoreWritesExactlyItsBytes := by
  intro s n addr v rest h hin
  refine ⟨_, step_st_of_inside h hin, rfl, fun k hk => ?_, fun a ha => Memory.byte_writeLE_outside _ _ ha⟩
  have hbytes := accessWidth_bytes_le n
  exact (Memory.byte_writeLE_at _ _ _ hk).trans (extractLsb'_setWidth_byte v (by omega))

/-! ### Consecutive words -/

theorem step_st_w4_of_inside {s : State} {addr v : Word} {rest : List HostOp}
    (h : s.host.script = .st .w4 addr v :: rest) (hin : addr.toNat + 4 ≤ s.memSize) :
    step s = .next ((s.withScript rest).withMem (Memory.writeLE s.mem addr.toNat v 4)) :=
  (step_st_of_inside h hin).trans <|
    congrArg (fun w => Host.Outcome.next ((s.withScript rest).withMem (Memory.writeLE s.mem addr.toNat w 4)))
      (BitVec.setWidth_eq v)

/-- MEM after the stores of `fillf32`, the address a natural that does not wrap (30_encoding.md R75). -/
def Memory.writeWords (m : Memory) (a : Nat) : List F32 → Memory
  | [] => m
  | v :: vs => Memory.writeWords (Memory.writeLE m a v 4) (a + 4) vs

theorem Memory.byte_writeWords_outside {a x : Nat} {vs : List F32} (m : Memory)
    (h : x < a ∨ a + 4 * vs.length ≤ x) : Memory.byte (Memory.writeWords m a vs) x = Memory.byte m x := by
  induction vs generalizing m a with
  | nil => rfl
  | cons v vs ih =>
    rw [List.length_cons] at h
    rw [Memory.writeWords, ih _ (by omega), Memory.byte_writeLE_outside _ _ (by omega)]

theorem Memory.readLE_writeWords {i : Nat} {vs : List F32} (m : Memory) (a : Nat) (h : i < vs.length) :
    Memory.readLE (Memory.writeWords m a vs) (a + 4 * i) .w4 = vs[i] := by
  induction vs generalizing m a i with
  | nil => cases h
  | cons v vs ih =>
    rw [Memory.writeWords]
    cases i with
    | zero =>
      have hkept : Memory.readLE (Memory.writeWords (Memory.writeLE m a v 4) (a + 4) vs) a .w4 =
          Memory.readLE (Memory.writeLE m a v 4) a .w4 :=
        Memory.readLE_congr .w4 fun x _ hx => Memory.byte_writeWords_outside _ (.inl hx)
      refine hkept.trans ((Memory.readLE_writeLE m a v .w4).trans ?_)
      exact (BitVec.setWidth_eq _).trans (BitVec.setWidth_eq v)
    | succ i =>
      rw [show a + 4 * (i + 1) = a + 4 + 4 * i by omega]
      exact ih _ _ (Nat.lt_of_succ_lt_succ h)

/-- The stores of `fillf32` run one step per word. The address is given as a natural, so that the address after the
last word, which may be `2^32`, needs no case of its own. -/
theorem run_fillOps (vs : List F32) {s : State} {a : Nat} (h : a + 4 * vs.length ≤ s.memSize) :
    core.run vs.length (s.withScript (fillOps (BitVec.ofNat 32 a) vs)) =
      .next ((s.withScript []).withMem (Memory.writeWords s.mem a vs)) := by
  induction vs generalizing s a with
  | nil => rfl
  | cons v vs ih =>
    rw [List.length_cons] at h
    have ha : (BitVec.ofNat 32 a).toNat = a := by
      have hsize := s.memSize_le
      rw [BitVec.toNat_ofNat]
      exact Nat.mod_eq_of_lt (by omega)
    have hstep : step (s.withScript (fillOps (BitVec.ofNat 32 a) (v :: vs))) =
        .next ((s.withMem (Memory.writeLE s.mem a v 4)).withScript (fillOps (BitVec.ofNat 32 (a + 4)) vs)) := by
      rw [fillOps, step_st_w4_of_inside (State.withScript_script _ _) (by rw [ha, State.withScript_memSize]; omega), ha,
        BitVec.ofNat_add]
      rfl
    rw [List.length_cons, run_succ_of_next _ hstep, ih (by rw [State.withMem_memSize]; omega)]
    rfl

/-- Settles O17: the table's rows are the definition's arms, and the run of `fillf32` leaves `Memory.writeWords`. -/
theorem pseudoInstructionsExpandAsListed : Obligations.PseudoInstructionsExpandAsListed := by
  refine ⟨rfl, rfl, rfl, fun _ _ => rfl, fun _ _ => rfl, fun s addr vs hin => ?_⟩
  have hrun := run_fillOps vs hin
  rw [BitVec.ofNat_toNat, BitVec.setWidth_eq] at hrun
  exact ⟨_, hrun, rfl, fun _ hi => Memory.readLE_writeWords _ _ hi, fun _ ha => Memory.byte_writeWords_outside _ ha⟩

end Sys2Proof.Machine
end

section
/-! PROOF. What the commands read: `QUANTIZE` its descriptors and the F32 buffer only, and no command the old `STATUS`
(30_encoding.md R69, R71). -/

namespace Sys2Proof.Machine

open Sys2Proof

/-! ### The operands of QUANTIZE -/

/-- Two states with the same descriptor registers and parameters. -/
structure SameDescriptors (s u : State) : Prop where
  f32BaseHi : u.f32BaseHi = s.f32BaseHi
  f32Len : u.f32Len = s.f32Len
  i8Base : u.i8Base = s.i8Base
  i8Len : u.i8Len = s.i8Len
  params : u.params = s.params

/-- Two memories with the same bytes in the elements `i .. i + k - 1` of the F32 buffer of `s`. -/
def SameElements (s : State) (i k : Nat) (m m' : Memory) : Prop :=
  ∀ j < k, ∀ b < 4, Memory.byte m' ((f32Addr s (i + j)).toNat + b) = Memory.byte m ((f32Addr s (i + j)).toNat + b)

theorem SameElements.refl (s : State) (i k : Nat) (m : Memory) : SameElements s i k m m := fun _ _ _ _ => rfl

theorem SameElements.readLE {s : State} {i k j : Nat} {m m' : Memory} (h : SameElements s i k m m') (hj : j < k) :
    Memory.readLE m' (f32Addr s (i + j)).toNat .w4 = Memory.readLE m (f32Addr s (i + j)).toNat .w4 := by
  refine Memory.readLE_congr .w4 fun x hlow hhigh => ?_
  rw [AccessWidth.bytes] at hhigh
  have hbyte := h j hj (x - (f32Addr s (i + j)).toNat) (by omega)
  rwa [Nat.add_sub_cancel' hlow] at hbyte

theorem SameElements.readLE_head {s : State} {i k : Nat} {m m' : Memory} (h : SameElements s i (k + 1) m m') :
    Memory.readLE m' (f32Addr s i).toNat .w4 = Memory.readLE m (f32Addr s i).toNat .w4 :=
  h.readLE (j := 0) (Nat.succ_pos k)

/-- The same byte written to two memories at the same address keeps every byte equal that was, and makes that one
equal. -/
theorem Memory.byte_write_congr {m m' : Memory} {a x : Nat} (v : Byte)
    (h : x = a ∨ Memory.byte m' x = Memory.byte m x) :
    Memory.byte (Memory.write m' a v) x = Memory.byte (Memory.write m a v) x := by
  rw [Memory.byte_write, Memory.byte_write]
  split
  · rfl
  · rename_i hx
    exact h.resolve_left hx

/-- One element further, after the same code has been written to both memories. -/
theorem SameElements.tail {s : State} {i k a : Nat} {m m' : Memory} (v : Byte) (h : SameElements s i (k + 1) m m') :
    SameElements s (i + 1) k (Memory.write m a v) (Memory.write m' a v) := by
  intro j hj b hb
  have hbyte := h (j + 1) (Nat.succ_lt_succ hj) b hb
  rw [show i + (j + 1) = i + 1 + j by omega] at hbyte
  exact Memory.byte_write_congr v (.inr hbyte)

/-! ### Pass 2 in two memories -/

/-- Pass 2 over memories with the same elements gives the same codes, and keeps every byte equal that was. -/
theorem byte_quantMem_congr {s : State} {scale : F32} {zp : Int} {k i x : Nat} {m m' : Memory}
    (h : SameElements s i k m m')
    (hx : (∃ j < k, x = (i8Addr s (i + j)).toNat) ∨ Memory.byte m' x = Memory.byte m x) :
    Memory.byte (quantMem s scale zp k i m') x = Memory.byte (quantMem s scale zp k i m) x := by
  induction k generalizing i m m' with
  | zero =>
    obtain ⟨j, hj, -⟩ | hx := hx
    · exact absurd hj (Nat.not_lt_zero j)
    · exact hx
  | succ k ih =>
    rw [quantMem, quantMem, h.readLE_head]
    refine ih (h.tail _) ?_
    obtain ⟨j, hj, rfl⟩ | hx := hx
    · cases j with
      | zero => exact .inr (Memory.byte_write_congr _ (.inl rfl))
      | succ j => exact .inl ⟨j, Nat.lt_of_succ_lt_succ hj, by rw [show i + (j + 1) = i + 1 + j by omega]⟩
    · exact .inr (Memory.byte_write_congr _ (.inr hx))

theorem quantNv_congr {s : State} {scale : F32} {zp : Int} {k i : Nat} {m m' : Memory}
    (h : SameElements s i k m m') : quantNv s scale zp k i m' = quantNv s scale zp k i m := by
  induction k generalizing i m m' with
  | zero => rfl
  | succ k ih => rw [quantNv, quantNv, h.readLE_head, ih (h.tail _)]

/-! ### Two states with the same descriptors -/

namespace SameDescriptors

variable {s u : State}

theorem f32Addr_eq (h : SameDescriptors s u) (i : Nat) : f32Addr u i = f32Addr s i := by
  simp only [f32Addr, State.f32Base, h.f32BaseHi]

theorem i8Addr_eq (h : SameDescriptors s u) (i : Nat) : i8Addr u i = i8Addr s i := by
  simp only [i8Addr, h.i8Base]

theorem accessesInside_iff (h : SameDescriptors s u) (n : Nat) : accessesInside u n ↔ accessesInside s n := by
  simp only [accessesInside, h.f32Addr_eq, h.i8Addr_eq, State.memSize, h.params]

theorem quantMem_eq (h : SameDescriptors s u) (scale : F32) (zp : Int) (k i : Nat) (m : Memory) :
    quantMem u scale zp k i m = quantMem s scale zp k i m := by
  induction k generalizing i m with
  | zero => rfl
  | succ k ih => simp only [quantMem, ih, h.params, h.f32Addr_eq, h.i8Addr_eq]

theorem quantNv_eq (h : SameDescriptors s u) (scale : F32) (zp : Int) (k i : Nat) (m : Memory) :
    quantNv u scale zp k i m = quantNv s scale zp k i m := by
  induction k generalizing i m with
  | zero => rfl
  | succ k ih => simp only [quantNv, ih, h.params, h.f32Addr_eq, h.i8Addr_eq]

theorem f32Elem_eq (h : SameDescriptors s u) {n i : Nat} (hm : SameElements s 0 n s.mem u.mem) (hi : i < n) :
    f32Elem u i = f32Elem s i := by
  have helem := hm.readLE hi
  rw [Nat.zero_add] at helem
  rw [f32Elem, f32Elem, h.f32Addr_eq, helem]

theorem bufferRange_eq (h : SameDescriptors s u) {n : Nat} (hn : 0 < n) (hm : SameElements s 0 n s.mem u.mem) :
    bufferRange u n = bufferRange s n := by
  have hrest : ((List.range (n - 1)).map fun j => f32Elem u (1 + j)) =
      (List.range (n - 1)).map fun j => f32Elem s (1 + j) := by
    refine List.map_congr_left fun j hj => h.f32Elem_eq hm ?_
    have := List.mem_range.1 hj
    omega
  rw [bufferRange, bufferRange, h.f32Elem_eq hm hn, hrest]

/-- What `QUANTIZE` leaves in two states with the same operands differs only in what it does not read. -/
theorem quantized_eq (h : SameDescriptors s u) {n : Nat} (hn : 0 < n) (hm : SameElements s 0 n s.mem u.mem) :
    quantized u n =
      { quantized s n with
        dqCode := u.dqCode
        dqResult := u.dqResult
        mem := quantMem s (bufferCalib s n).1 (bufferCalib s n).2.1 n 0 u.mem
        host := u.host } := by
  have hcalib : bufferCalib u n = bufferCalib s n := by rw [bufferCalib, bufferCalib, h.bufferRange_eq hn hm]
  rw [quantized, hcalib, h.bufferRange_eq hn hm, h.quantMem_eq, h.quantNv_eq, quantNv_congr hm]
  obtain ⟨hf32BaseHi, hf32Len, hi8Base, hi8Len, hparams⟩ := h
  apply State.ext <;> simp [quantized, hf32BaseHi, hf32Len, hi8Base, hi8Len, hparams]

end SameDescriptors

theorem f32Len_toNat_pos {s : State} (h0 : s.f32Len ≠ 0) : 0 < s.f32Len.toNat :=
  Nat.pos_of_ne_zero fun h => h0 (BitVec.eq_of_toNat_eq h)

/-- `QUANTIZE` with accepted lengths in two states with the same descriptors: both stop, or both complete. -/
theorem SameDescriptors.execQuantize_cases {s u : State} (h : SameDescriptors s u) (h0 : s.f32Len ≠ 0)
    (hl : s.f32Len = s.i8Len) :
    (execQuantize s = .fault .outsideMemory ∧ execQuantize u = .fault .outsideMemory) ∨
      (execQuantize s = .next (quantized s s.f32Len.toNat) ∧ execQuantize u = .next (quantized u s.f32Len.toNat)) := by
  have h0' : u.f32Len ≠ 0 := h.f32Len ▸ h0
  have hl' : u.f32Len = u.i8Len := by rw [h.f32Len, h.i8Len, hl]
  have hinside : accessesInside u u.f32Len.toNat ↔ accessesInside s s.f32Len.toNat := by
    rw [h.f32Len]
    exact h.accessesInside_iff _
  by_cases hin : accessesInside s s.f32Len.toNat
  · exact .inr ⟨execQuantize_of_inside h0 hl hin, h.f32Len ▸ execQuantize_of_inside h0' hl' (hinside.2 hin)⟩
  · exact .inl ⟨execQuantize_of_outside (f32Len_toNat_pos h0) hl hin,
      execQuantize_of_outside (f32Len_toNat_pos h0') hl' (mt hinside.1 hin)⟩

/-- States that differ in `STATUS` and the calibration results only have the same outcome of `QUANTIZE` with accepted
lengths, whatever stood in those registers. -/
theorem execQuantize_eq_of_sameDescriptors {s u : State} (h : SameDescriptors s u) (h0 : s.f32Len ≠ 0)
    (hl : s.f32Len = s.i8Len) (hcode : u.dqCode = s.dqCode) (hresult : u.dqResult = s.dqResult) (hmem : u.mem = s.mem)
    (hhost : u.host = s.host) : execQuantize u = execQuantize s := by
  obtain ⟨hs, hu⟩ | ⟨hs, hu⟩ := h.execQuantize_cases h0 hl
  · rw [hs, hu]
  · have hm : SameElements s 0 s.f32Len.toNat s.mem u.mem := hmem.symm ▸ SameElements.refl s 0 _ s.mem
    rw [hs, hu, h.quantized_eq (f32Len_toNat_pos h0) hm, hcode, hresult, hmem, hhost]
    rfl

/-- Settles O49, from `SameDescriptors.quantized_eq` and pass 2 in two memories. -/
theorem quantizeReadsOnlyItsOperands : Obligations.QuantizeReadsOnlyItsOperands := by
  constructor
  · intro s st sc z mn mx h0 hl
    exact execQuantize_eq_of_sameDescriptors ⟨rfl, rfl, rfl, rfl, rfl⟩ h0 hl rfl rfl rfl rfl
  · intro s u h0 hl hf32BaseHi hf32Len hi8Base hi8Len hparams hbytes
    have h : SameDescriptors s u := ⟨hf32BaseHi, hf32Len, hi8Base, hi8Len, hparams⟩
    have hm : SameElements s 0 s.f32Len.toNat s.mem u.mem := by
      intro i hi b hb
      rw [Nat.zero_add]
      exact hbytes i hi b hb
    obtain hstop | ⟨hs, hu⟩ := h.execQuantize_cases h0 hl
    · exact .inl hstop
    · rw [h.quantized_eq (f32Len_toNat_pos h0) hm] at hu
      refine .inr ⟨_, _, hs, hu, rfl, fun i hi => ?_, fun a ha => byte_quantMem_congr hm (.inr ha)⟩
      exact byte_quantMem_congr hm (.inl ⟨i, hi, by rw [Nat.zero_add]⟩)

/-! ### No command reads STATUS -/

theorem execQuantize_withStatus (s : State) (x : Word) : execQuantize (s.withStatus x) = execQuantize s := by
  by_cases h0 : s.f32Len = 0
  · rw [execQuantize_of_empty h0, execQuantize_of_empty (s := s.withStatus x) h0]
    rfl
  · by_cases hl : s.f32Len = s.i8Len
    · exact execQuantize_eq_of_sameDescriptors ⟨rfl, rfl, rfl, rfl, rfl⟩ h0 hl rfl rfl rfl rfl
    · rw [execQuantize_of_mismatch h0 hl, execQuantize_of_mismatch (s := s.withStatus x) h0 hl]
      rfl

theorem execDeq_withStatus (s : State) (x : Word) : execDeq (s.withStatus x) = execDeq s := by
  rw [execDeq_eq, execDeq_eq, State.withStatus_scale]
  split <;> rfl

theorem deqMem_withStatus (s : State) (x : Word) (k i : Nat) (m : Memory) :
    deqMem (s.withStatus x) k i m = deqMem s k i m := by
  induction k generalizing i m with
  | zero => rfl
  | succ k ih => exact ih _ _

theorem execDeqb_withStatus (s : State) (x : Word) : execDeqb (s.withStatus x) = execDeqb s := by
  cases hv : validScale s.scale with
  | false =>
    rw [execDeqb_of_invalidScale hv, execDeqb_of_invalidScale (s := s.withStatus x) hv]
    rfl
  | true =>
    by_cases hl : s.i8Len = s.f32Len
    · by_cases hin : accessesInside s s.i8Len.toNat
      · rw [execDeqb_of_inside hv hl hin, execDeqb_of_inside (s := s.withStatus x) hv hl hin, deqMem_withStatus]
        rfl
      · rw [execDeqb_of_outside hv hl hin, execDeqb_of_outside (s := s.withStatus x) hv hl hin]
    · rw [execDeqb_of_mismatch hv hl, execDeqb_of_mismatch (s := s.withStatus x) hv hl]
      rfl

theorem exec_withStatus (i : Instr) (s : State) (x : Word) : exec i (s.withStatus x) = exec i s := by
  cases i with
  | quantize => exact execQuantize_withStatus s x
  | deq => exact execDeq_withStatus s x
  | deqb => exact execDeqb_withStatus s x

theorem executeCommand_withStatus (v : Word) (s : State) (x : Word) :
    executeCommand v (s.withStatus x) = executeCommand v s := by
  cases hd : decode v with
  | ok i => rw [executeCommand_of_decode hd, executeCommand_of_decode hd, exec_withStatus]
  | error e =>
    have hnone : ∀ i, decode v ≠ .ok i := fun i hi => by simp [hd] at hi
    rw [executeCommand_of_undecodable hnone, executeCommand_of_undecodable hnone]
    rfl

/-- 30_encoding.md R69's chain over the two fields of the word. -/
theorem executeCommand_eq_chain (v : Word) (s : State) :
    executeCommand v s =
      (if rsvField v ≠ 0 ∨ (opcField v ≠ 0x01 ∧ opcField v ≠ 0x02 ∧ opcField v ≠ 0x03) then
        .next (raiseError s .illegalCommand)
      else if opcField v = 0x01 then exec .quantize s
      else if opcField v = 0x02 then exec .deq s
      else exec .deqb s) := by
  split_ifs with hillegal hquantize hdeq
  · refine executeCommand_of_undecodable (fun i hd => ?_) s
    obtain ⟨hrsv, hopc⟩ := decode_eq_ok_iff.1 hd
    rw [hrsv, hopc] at hillegal
    revert hillegal
    cases i <;> decide
  all_goals
    simp only [not_or, not_not, not_and_or] at hillegal
    obtain ⟨hrsv, hopc⟩ := hillegal
  · exact executeCommand_of_decode (decode_of_fields (i := .quantize) hrsv hquantize) s
  · exact executeCommand_of_decode (decode_of_fields (i := .deq) hrsv hdeq) s
  · have hdeqb := (hopc.resolve_left hquantize).resolve_left hdeq
    exact executeCommand_of_decode (decode_of_fields (i := .deqb) hrsv hdeqb) s

/-- Settles O5, from R69's chain and that no command reads `STATUS`. -/
theorem commandWordSelectsItsOperation : Obligations.CommandWordSelectsItsOperation := by
  intro s v rest h
  refine ⟨(step_wr_cmd h).trans (executeCommand_eq_chain v _), fun x => ?_⟩
  rw [step_wr_cmd h, step_wr_cmd (s := s.withStatus x) h]
  exact executeCommand_withStatus v (s.withScript rest) x

end Sys2Proof.Machine
end

section
/-! PROOF. `RANGE` (40_range_calibration.md R80 to R83): at each end the scan keeps the first of the extreme elements
that are no NaN, and a NaN first element for good. -/

namespace Sys2Proof.Machine

open Sys2Proof

/-! ### The first word of least key -/

/-- `m` is the first word of least key among the words of `l` that are no NaN. The minimum is the case of the key
`fUnits`, the maximum that of its negative. -/
structure FirstLeast (key : F32 → Int) (l : List F32) (m : F32) : Prop where
  notNaN : fIsNaN m = false
  first : ∃ pre post, l = pre ++ m :: post ∧ ∀ w ∈ pre, fIsNaN w = false → key m < key w
  least : ∀ w ∈ l, fIsNaN w = false → key m ≤ key w

theorem FirstLeast.mem {key : F32 → Int} {l : List F32} {m : F32} (h : FirstLeast key l m) : m ∈ l := by
  obtain ⟨pre, post, rfl, -⟩ := h.first
  simp

theorem FirstLeast.singleton (key : F32 → Int) {v : F32} (hv : fIsNaN v = false) : FirstLeast key [v] v where
  notNaN := hv
  first := ⟨[], [], rfl, by simp⟩
  least w hw _ := by rw [List.mem_singleton.1 hw]

/-- One strict test, applied to the next element, keeps the first word of least key. -/
theorem FirstLeast.concat {key : F32 → Int} {l : List F32} {m w : F32} (h : FirstLeast key l m) {b : Bool}
    (hb : b = true ↔ fIsNaN w = false ∧ key w < key m) : FirstLeast key (l ++ [w]) (if b then w else m) := by
  cases b with
  | true =>
    obtain ⟨hw, hlt⟩ := hb.1 rfl
    refine ⟨hw, ⟨l, [], rfl, fun x hx hn => hlt.trans_le (h.least x hx hn)⟩, fun x hx hn => ?_⟩
    obtain hx | rfl : x ∈ l ∨ x = w := by simpa using hx
    · exact hlt.le.trans (h.least x hx hn)
    · exact le_rfl
  | false =>
    obtain ⟨pre, post, hl, hpre⟩ := h.first
    refine ⟨h.notNaN, ⟨pre, post ++ [w], by simp [hl], hpre⟩, fun x hx hn => ?_⟩
    obtain hx | rfl : x ∈ l ∨ x = w := by simpa using hx
    · exact h.least x hx hn
    · exact not_lt.1 fun hlt => Bool.false_ne_true (hb.2 ⟨hn, hlt⟩)

/-! ### The scan -/

theorem range_concat (v : F32) (vs : List F32) (w : F32) : range v (vs ++ [w]) = rangeStep (range v vs) w := by
  simp [range]

/-- Where element 0 is no NaN, the ends are the first elements of least and of greatest value. -/
theorem range_firstLeast {v : F32} (hv : fIsNaN v = false) (vs : List F32) :
    FirstLeast fUnits (v :: vs) (range v vs).1 ∧ FirstLeast (fun w => -fUnits w) (v :: vs) (range v vs).2 := by
  induction vs using List.reverseRecOn with
  | nil => exact ⟨.singleton _ hv, .singleton _ hv⟩
  | append_singleton vs w ih =>
    obtain ⟨hmin, hmax⟩ := ih
    rw [range_concat]
    exact ⟨hmin.concat (by simp [flt, hmin.notNaN]), hmax.concat (by simp [fgt, hmax.notNaN])⟩

/-- Elements that pass neither test leave the ends at element 0. -/
theorem range_eq_self {v : F32} {vs : List F32} (h : ∀ w ∈ vs, flt w v = false ∧ fgt w v = false) :
    range v vs = (v, v) := by
  induction vs with
  | nil => rfl
  | cons w ws ih =>
    obtain ⟨⟨hlt, hgt⟩, hws⟩ := List.forall_mem_cons.1 h
    have hstep : rangeStep (v, v) w = (v, v) := by simp [rangeStep, hlt, hgt]
    calc range v (w :: ws) = ws.foldl rangeStep (rangeStep (v, v) w) := rfl
      _ = range v ws := by rw [hstep]; rfl
      _ = (v, v) := ih hws

section
variable {v : F32} {vs : List F32}

theorem range_mem (hv : fIsNaN v = false) : (range v vs).1 ∈ v :: vs ∧ (range v vs).2 ∈ v :: vs :=
  ⟨(range_firstLeast hv vs).1.mem, (range_firstLeast hv vs).2.mem⟩

theorem fIsNaN_range (hv : fIsNaN v = false) : fIsNaN (range v vs).1 = false ∧ fIsNaN (range v vs).2 = false :=
  ⟨(range_firstLeast hv vs).1.notNaN, (range_firstLeast hv vs).2.notNaN⟩

theorem range_bounds (hv : fIsNaN v = false) {w : F32} (hw : w ∈ v :: vs) (hn : fIsNaN w = false) :
    fUnits (range v vs).1 ≤ fUnits w ∧ fUnits w ≤ fUnits (range v vs).2 :=
  ⟨(range_firstLeast hv vs).1.least w hw hn, neg_le_neg_iff.1 ((range_firstLeast hv vs).2.least w hw hn)⟩

theorem range_ordered (hv : fIsNaN v = false) : fUnits (range v vs).1 ≤ fUnits (range v vs).2 :=
  (range_bounds hv (range_mem hv).2 (fIsNaN_range hv).2).1

/-- The ends have one value exactly where all elements that are no NaN have. -/
theorem fUnits_range_eq_iff (hv : fIsNaN v = false) :
    fUnits (range v vs).1 = fUnits (range v vs).2 ↔
      ∀ x ∈ v :: vs, ∀ y ∈ v :: vs, fIsNaN x = false → fIsNaN y = false → fUnits x = fUnits y := by
  constructor
  · intro heq x hx y hy hnx hny
    have hbx := range_bounds hv hx hnx
    have hby := range_bounds hv hy hny
    omega
  · intro hall
    exact hall _ (range_mem hv).1 _ (range_mem hv).2 (fIsNaN_range hv).1 (fIsNaN_range hv).2

end

theorem feq_eq_false_of_fUnits_ne {w m : F32} (h : fIsNaN w = false → fUnits w ≠ fUnits m) : feq w m = false := by
  cases hw : fIsNaN w with
  | true => exact (compare_of_fIsNaN (.inl hw)).2.2
  | false => simp [feq, h hw]

/-- Settles O34: both ends by `range_firstLeast`, and every element against them by value. -/
theorem rangeGivesTheMinimumAndMaximum : Obligations.RangeGivesTheMinimumAndMaximum := by
  intro v vs
  constructor
  · intro hv
    obtain ⟨hmin, hmax⟩ := range_firstLeast hv vs
    obtain ⟨pre, post, hl, hpre⟩ := hmin.first
    obtain ⟨pre', post', hl', hpre'⟩ := hmax.first
    refine ⟨hmin.notNaN, hmax.notNaN,
      ⟨pre, post, hl, fun w hw => feq_eq_false_of_fUnits_ne fun hn => (hpre w hw hn).ne'⟩,
      ⟨pre', post', hl', fun w hw => feq_eq_false_of_fUnits_ne fun hn => (neg_lt_neg_iff.1 (hpre' w hw hn)).ne⟩,
      fun w hw => ?_, ?_, ?_⟩
    · cases hn : fIsNaN w with
      | true =>
        exact ⟨(compare_of_fIsNaN (.inl hn)).1, (compare_of_fIsNaN (.inl hn)).2.1⟩
      | false =>
        obtain ⟨hlow, hhigh⟩ := range_bounds hv hw hn
        simp [flt, fgt, hlow, hhigh]
    · simp [fgt, range_ordered hv]
    · rw [feq_iff hmin.notNaN hmax.notNaN, fUnits_range_eq_iff hv]
      exact forall₄_congr fun x _ y _ => forall₂_congr fun hx hy => (feq_iff hx hy).symm
  · intro hfin
    have hnum : ∀ w ∈ v :: vs, fIsNaN w = false := fun w hw => fIsNaN_of_fFinite (hfin w hw)
    have hv := hnum v List.mem_cons_self
    refine ⟨(range_mem hv).1, (range_mem hv).2, fun w hw => range_bounds hv hw (hnum w hw), range_ordered hv,
      (fUnits_range_eq_iff hv).trans (forall₄_congr fun x hx y hy => ?_)⟩
    simp [hnum x hx, hnum y hy]

/-- Settles O35: equal elements and a NaN element 0 let no element pass a test. -/
theorem rangeCornerCases : Obligations.RangeCornerCases := by
  intro v vs
  refine ⟨rfl, fun hv heq => range_eq_self fun w hw => ?_, fun hv => range_eq_self fun w _ => ?_,
    fun hv => ⟨(fIsNaN_range hv).1, (fIsNaN_range hv).2, range_mem hv⟩⟩
  · obtain ⟨hnum, hval⟩ : (fIsNaN w = false ∧ fIsNaN v = false) ∧ fUnits w = fUnits v := by
      simpa [feq] using heq w hw
    simp [flt, fgt, hval]
  · exact ⟨(compare_of_fIsNaN (.inr hv)).1, (compare_of_fIsNaN (.inr hv)).2.1⟩

end Sys2Proof.Machine
end

section
/-! PROOF. Zero results and unchanged values of `rnd32` (00_scope.md R10), and the quotients and differences of
`CALIB` that follow from them. -/

namespace Sys2Proof.Machine

open Sys2Proof

/-! ### Where rounding gives a zero -/

theorem roundHalfEven_eq_zero_iff (num : Nat) {den : Nat} (h : 0 < den) :
    roundHalfEven num den = 0 ↔ 2 * num ≤ den := by
  obtain ⟨hlow, hup, heven⟩ := roundHalfEven_spec num h
  generalize roundHalfEven num den = q at *
  constructor
  · rintro rfl
    omega
  · intro hn
    obtain hq | rfl | hq : q = 0 ∨ q = 1 ∨ 2 ≤ q := by omega
    · exact hq
    · omega
    · have := Nat.mul_le_mul_right den hq
      omega

/-- `rnd32` gives a zero exactly up to half a unit: at the half the tie goes to the even 0. -/
theorem fIsZero_rnd32_iff (neg : Bool) (num : Nat) {den : Nat} (h : 0 < den) :
    fIsZero (rnd32 neg num den) = true ↔ 2 * num ≤ den := by
  obtain hn | hn := Nat.lt_or_ge num (den * ((2 ^ 25 - 1) * 2 ^ 252))
  · rw [fIsZero_iff, fMag_rnd32 neg h hn, Nat.mul_eq_zero, or_iff_left (Nat.two_pow_pos _).ne']
    obtain hg | hg := Nat.eq_zero_or_pos (gridExp num den)
    · rw [gridQuot, hg, pow_zero, Nat.mul_one, roundHalfEven_eq_zero_iff num h]
    · have hq := le_gridQuot h hg
      have hle := gridExp_le hg
      have := Nat.le_mul_of_pos_right den (Nat.two_pow_pos (gridExp num den))
      omega
  · have hinf : fIsZero (fInf neg) = false := by cases neg <;> decide
    rw [rnd32_of_overflow neg h hn, hinf]
    simp only [Bool.false_eq_true, false_iff]
    omega

/-! ### Rounding a value that a word holds -/

/-- A word holds `q` spacings of a grid `2^g`, and its lower 31 bits are those that `rnd32` builds from `g` and `q`. -/
theorem exists_spacings (w : F32) :
    ∃ g q, q < 2 ^ 24 ∧ (0 < g → 2 ^ 23 ≤ q) ∧ w.toNat % 2 ^ 31 = g * 2 ^ 23 + q ∧ fMag w = q * 2 ^ g := by
  have hf := fFrac_lt w
  have he := fExp_lt w
  have hw : w.toNat % 2 ^ 31 = fExp w * 2 ^ 23 + fFrac w := by
    have := toNat_eq_fields w
    split at this <;> omega
  by_cases hz : fExp w = 0
  · exact ⟨0, fFrac w, by omega, by omega, by rw [hw, hz], by simp [fMag, hz]⟩
  · refine ⟨fExp w - 1, 2 ^ 23 + fFrac w, by omega, by omega, ?_, by rw [fMag, if_neg hz]⟩
    rw [hw]; omega

theorem gridExp_spacings {g q den : Nat} (h : 0 < den) (hq : q < 2 ^ 24) (hg : 0 < g → 2 ^ 23 ≤ q) :
    gridExp (q * 2 ^ g * den) den = g := by
  rw [gridExp, Nat.mul_div_cancel _ h]
  obtain rfl | hpos := Nat.eq_zero_or_pos g
  · obtain rfl | hq0 := Nat.eq_zero_or_pos q
    · simp
    · have := (Nat.log2_lt hq0.ne').2 hq
      rw [pow_zero, Nat.mul_one]; omega
  · have hlow : 2 ^ (g + 23) ≤ q * 2 ^ g :=
      (pow_add 2 g 23).trans_le ((Nat.mul_comm _ _).trans_le (Nat.mul_le_mul_right _ (hg hpos)))
    have hhigh : q * 2 ^ g < 2 ^ (g + 23 + 1) :=
      (Nat.mul_lt_mul_of_pos_right hq (Nat.two_pow_pos g)).trans_eq (by ring)
    have hne : q * 2 ^ g ≠ 0 := ((Nat.two_pow_pos _).trans_le hlow).ne'
    rw [(Nat.log2_eq_iff hne).2 ⟨hlow, hhigh⟩, Nat.add_sub_cancel]

/-- Rounding the exact value of a finite word gives the word back. -/
theorem rnd32_fMag {w : F32} (hw : fFinite w = true) {den : Nat} (h : 0 < den) :
    rnd32 (fSign w) (fMag w * den) den = w := by
  obtain ⟨g, q, hq, hg, hword, hmag⟩ := exists_spacings w
  have hgrid : gridExp (fMag w * den) den = g := hmag ▸ gridExp_spacings h hq hg
  have hquot : gridQuot (fMag w * den) den = q := by
    rw [gridQuot, hgrid, hmag, Nat.mul_assoc, Nat.mul_comm (2 ^ g) den]
    exact roundHalfEven_mul q (Nat.mul_pos h (Nat.two_pow_pos g))
  have hlt : w.toNat % 2 ^ 31 < 0x7F800000 := by
    have := (fFinite_iff w).1 hw
    rw [fExp_eq] at this
    omega
  rw [rnd32_eq, hgrid, hquot, ← hword, Nat.min_eq_left hlt.le, fPack_self]

/-! ### Words and zero -/

theorem fIsNaN_of_fIsZero {w : F32} (h : fIsZero w = true) : fIsNaN w = false := by
  obtain ⟨he, -⟩ : fExp w = 0 ∧ fFrac w = 0 := by simpa [fIsZero] using h
  simp [fIsNaN, he]

/-- Both zeros compare equal to `+0`, and nothing else does. -/
theorem feq_fZero_iff (w : F32) : feq w (fZero false) = true ↔ fIsZero w = true := by
  have hz : fIsNaN (fZero false) = false ∧ fUnits (fZero false) = 0 := by decide
  have hu := fUnits_natAbs w
  cases hn : fIsNaN w with
  | true =>
    have hw : fIsZero w ≠ true := fun h => Bool.false_ne_true ((fIsNaN_of_fIsZero h).symm.trans hn)
    simp [feq, hn, hw]
  | false =>
    rw [feq_iff hn hz.1, hz.2, fIsZero_iff]
    omega

/-- The lower 31 bits order the small magnitudes as the words do. -/
theorem fMag_le_iff {w : F32} (hs : fSign w = false) {n : Nat} (hn : n < 2 ^ 23) : fMag w ≤ n ↔ w.toNat ≤ n := by
  have hw := toNat_eq_fields w
  rw [hs, if_neg Bool.false_ne_true] at hw
  by_cases he : fExp w = 0
  · rw [fMag, if_pos he, hw, he]; omega
  · have hm : 2 ^ 23 ≤ fMag w := by
      rw [fMag, if_neg he]
      exact (Nat.le_add_right _ _).trans (Nat.le_mul_of_pos_right _ (Nat.two_pow_pos _))
    omega

/-! ### Division by 255.0 and by 1.0 -/

theorem fdiv_fOne {v : F32} (hv : fFinite v = true) : fdiv v fOne = v := by
  have hone : fSign fOne = false ∧ fMag fOne = 2 ^ 149 := by decide
  rw [fdiv_of_finite (fIsNaN_of_fFinite hv) (by decide) (fIsInf_of_fFinite hv) (by decide) (by decide), hone.1, hone.2,
    Bool.xor_false, rnd32_fMag hv (Nat.two_pow_pos 149)]

theorem fdiv_fQspan_of_finite {r : F32} (hr : fFinite r = true) :
    fdiv r fQspan = rnd32 (fSign r) (fMag r * 2 ^ 149) (255 * 2 ^ 149) := by
  have hspan : fSign fQspan = false ∧ fMag fQspan = 255 * 2 ^ 149 := by decide
  rw [fdiv_of_finite (fIsNaN_of_fFinite hr) (by decide) (fIsInf_of_fFinite hr) (by decide) (by decide), hspan.1,
    hspan.2, Bool.xor_false]

theorem fdiv_fQspan_of_fIsInf {r : F32} (hr : fIsInf r = true) : fdiv r fQspan = r := by
  have hn : fIsNaN r = false := by
    obtain ⟨-, hf⟩ : fExp r = 255 ∧ fFrac r = 0 := by simpa [fIsInf] using hr
    simp [fIsNaN, hf]
  have hspan : fSign fQspan = false := by decide
  rw [fdiv_of_fIsInf_left hn (by decide) hr (by decide), hspan, Bool.xor_false, fInf_fSign hr]

/-- The quotient by 255.0 underflows exactly from 127.5 units down. -/
theorem fIsZero_fdiv_fQspan_iff {r : F32} (hr : fFinite r = true) :
    fIsZero (fdiv r fQspan) = true ↔ fMag r ≤ 127 := by
  rw [fdiv_fQspan_of_finite hr, fIsZero_rnd32_iff _ _ (by norm_num)]
  omega

theorem fFinite_fdiv_fQspan {r : F32} (hr : fFinite r = true) : fFinite (fdiv r fQspan) = true := by
  have := fMag_le hr
  rw [fdiv_fQspan_of_finite hr]
  exact fFinite_rnd32 _ (by norm_num) (by omega)

/-! ### The difference of an ordered pair -/

theorem fsub_self {v : F32} (hv : fFinite v = true) : fsub v v = fZero false := by
  have hn := fIsNaN_of_fFinite hv
  have hi := fIsInf_of_fFinite hv
  have hne : ¬ (v = 0x80000000 ∧ v = 0x00000000) := by rintro ⟨rfl, h⟩; revert h; decide
  rw [fsub_of_finite hn hn hi hi, if_pos rfl, if_neg hne]; rfl

/-- The difference of finite `min <= max` is `-0`, a finite word with a positive sign, or `+inf`. -/
theorem fsub_of_ordered {mn mx : F32} (hmn : fFinite mn = true) (hmx : fFinite mx = true)
    (h : fUnits mn ≤ fUnits mx) :
    fsub mx mn = fZero true ∨ (fFinite (fsub mx mn) = true ∧ fSign (fsub mx mn) = false) ∨
      fsub mx mn = fInf false := by
  rw [fsub_of_finite (fIsNaN_of_fFinite hmx) (fIsNaN_of_fFinite hmn) (fIsInf_of_fFinite hmx) (fIsInf_of_fFinite hmn)]
  by_cases heq : fUnits mx = fUnits mn
  · rw [if_pos heq]
    split
    · exact .inl rfl
    · exact .inr (.inl (by decide))
  · rw [if_neg heq, decide_eq_false (not_lt.2 h)]
    refine .inr ?_
    obtain hn | hn := Nat.lt_or_ge (fUnits mx - fUnits mn).natAbs (1 * ((2 ^ 25 - 1) * 2 ^ 252))
    · exact .inl ⟨fFinite_rnd32 false Nat.one_pos hn, fSign_rnd32 _ _ _⟩
    · exact .inr (rnd32_of_overflow false Nat.one_pos hn)

end Sys2Proof.Machine
end

section
/-! PROOF. `CALIB` (40_range_calibration.md R84 to R91): its formula, the fallback of the scale and its sign. -/

namespace Sys2Proof.Machine

open Sys2Proof

/-! ### The formula (R89) -/

theorem calibScale_of_fIsZero {mn mx : F32} (h : fIsZero (fdiv (fsub mx mn) fQspan) = true) :
    calibScale mn mx = fOne := if_pos ((feq_fZero_iff _).2 h)

theorem calibScale_of_not_fIsZero {mn mx : F32} (h : fIsZero (fdiv (fsub mx mn) fQspan) = false) :
    calibScale mn mx = fdiv (fsub mx mn) fQspan :=
  if_neg fun hz => Bool.false_ne_true (h.symm.trans ((feq_fZero_iff _).1 hz))

theorem calib_zp_nv (mn mx : F32) : ((calib mn mx).2.1, (calib mn mx).2.2) =
    ftruncSat32 (fsub fQmin (fdiv mn (calibScale mn mx))) := rfl

/-- Settles O58: the formula is the definition of `calib`, and the worked example is run. -/
theorem calibrationFollowsItsFormula : Obligations.CalibrationFollowsItsFormula :=
  ⟨fun _ _ => ⟨fun h => if_pos h, fun h => if_neg (Bool.eq_false_iff.1 h), calib_zp_nv _ _⟩,
    by decide⟩

/-! ### The scale of finite `min <= max` (R87, R90, R91) -/

/-- Settles O37: the range is `+0`, and dividing by `1.0` changes nothing. -/
theorem constantRangeHasScaleOne : Obligations.ConstantRangeHasScaleOne := by
  intro v hv
  have hscale : calibScale v v = fOne := calibScale_of_fIsZero (by rw [fsub_self hv]; decide)
  refine ⟨hscale, ?_⟩
  rw [calib_zp_nv, hscale, fdiv_fOne hv, fQmin]

/-- The words whose quotient by 255.0 is a zero, among the differences that `fsub_of_ordered` allows. -/
theorem fIsZero_fdiv_fQspan_of_ordered {mn mx : F32} (hmn : fFinite mn = true) (hmx : fFinite mx = true)
    (h : fUnits mn ≤ fUnits mx) :
    fIsZero (fdiv (fsub mx mn) fQspan) = true ↔ (fsub mx mn).toNat ≤ 0x7F ∨ fsub mx mn = 0x80000000 := by
  obtain hr | ⟨hfin, hs⟩ | hr := fsub_of_ordered hmn hmx h
  · rw [hr]; decide
  · have hne : fsub mx mn ≠ 0x80000000 := fun hr => by rw [hr] at hs; revert hs; decide
    rw [fIsZero_fdiv_fQspan_iff hfin, fMag_le_iff hs (by norm_num), or_iff_left hne]
  · rw [hr]; decide

/-- Settles O38: a positive quotient by 255.0 is a zero exactly up to 127 units, which are the words up to `0x7F`. -/
theorem scaleFallbackFiresExactlyOnUnderflow : Obligations.ScaleFallbackFiresExactlyOnUnderflow := by
  refine ⟨fun r hr hs => ?_, fun mn mx hmn hmx h => ?_⟩
  · exact (feq_fZero_iff _).trans ((fIsZero_fdiv_fQspan_iff hr).trans (fMag_le_iff hs (by norm_num)))
  · have hzero := fIsZero_fdiv_fQspan_of_ordered hmn hmx h
    split
    next hr => exact calibScale_of_fIsZero (hzero.2 hr)
    next hr => exact calibScale_of_not_fIsZero (Bool.eq_false_iff.2 (mt hzero.1 hr))

/-- The fallback is `1.0`; elsewhere the quotient keeps the sign of a positive difference, and it is an infinity only
where the difference is. -/
theorem calibScale_of_ordered {mn mx : F32} (hmn : fFinite mn = true) (hmx : fFinite mx = true)
    (h : fUnits mn ≤ fUnits mx) :
    fIsNaN (calibScale mn mx) = false ∧ fIsZero (calibScale mn mx) = false ∧ fSign (calibScale mn mx) = false ∧
      (fIsInf (calibScale mn mx) = true → fIsInf (fsub mx mn) = true) := by
  cases hz : fIsZero (fdiv (fsub mx mn) fQspan) with
  | true =>
    rw [calibScale_of_fIsZero hz]
    exact ⟨by decide, by decide, by decide, fun hi => absurd hi (by decide)⟩
  | false =>
    rw [calibScale_of_not_fIsZero hz]
    obtain hr | ⟨hfin, hs⟩ | hr := fsub_of_ordered hmn hmx h
    · rw [hr] at hz
      exact absurd hz (by decide)
    · have hq := fFinite_fdiv_fQspan hfin
      refine ⟨fIsNaN_of_fFinite hq, hz, ?_, fun hi => absurd hi (by simp [fIsInf_of_fFinite hq])⟩
      rw [fdiv_fQspan_of_finite hfin, fSign_rnd32, hs]
    · have hi : fIsInf (fsub mx mn) = true := by rw [hr]; decide
      rw [fdiv_fQspan_of_fIsInf hi, hr]
      exact ⟨by decide, by decide, by decide, id⟩

/-- Settles O36 by `calibScale_of_ordered`. -/
theorem scaleOfFiniteRangeIsPositive : Obligations.ScaleOfFiniteRangeIsPositive := by
  intro mn mx hmn hmx h
  obtain ⟨hnan, hzero, hsign, hinf⟩ := calibScale_of_ordered hmn hmx h
  exact ⟨hnan, hzero, hsign, hinf, fun hf => calibScale_of_fIsZero ((feq_fZero_iff _).1 hf)⟩

end Sys2Proof.Machine
end

section
/-! PROOF. The element quantizer (41_quantize.md R101, R102, R112): its branches, the quotients that are zeros, and a
datapath of bounded width. -/

namespace Sys2Proof.Machine

open Sys2Proof

/-! ### The branches of QELEM (R101) -/

theorem fIsNaN_of_fIsInf {w : F32} (h : fIsInf w = true) : fIsNaN w = false := by
  obtain ⟨-, hf⟩ : fExp w = 255 ∧ fFrac w = 0 := by simpa [fIsInf] using h
  simp [fIsNaN, hf]

section
variable (tie : RoundTie) {v scale : F32} (zp : Int)

theorem qelem_of_fIsNaN (h : fIsNaN (fdiv v scale) = true) : qelem tie v scale zp = (clamp8 (0 + zp), true) :=
  if_pos h

theorem qelem_of_fIsInf (h : fIsInf (fdiv v scale) = true) :
    qelem tie v scale zp = (if fSign (fdiv v scale) then -128 else 127, false) := by
  have hn : fIsNaN (fdiv v scale) = false := fIsNaN_of_fIsInf h
  cases hs : fSign (fdiv v scale) <;> simp [qelem, hn, h, hs]

theorem qelem_of_posInf (h : fdiv v scale = 0x7F800000) : qelem tie v scale zp = (127, false) := by
  rw [qelem_of_fIsInf tie zp (by rw [h]; decide), h]; rfl

theorem qelem_of_negInf (h : fdiv v scale = 0xFF800000) : qelem tie v scale zp = (-128, false) := by
  rw [qelem_of_fIsInf tie zp (by rw [h]; decide), h]; rfl

theorem qelem_of_fFinite (h : fFinite (fdiv v scale) = true) :
    qelem tie v scale zp = (clamp8 (fround tie (fdiv v scale) + zp), false) := by
  simp [qelem, fIsNaN_of_fFinite h, fIsInf_of_fFinite h]

/-- A conversion raises `nv` exactly on a NaN quotient. -/
theorem qelem_nv (v scale : F32) : (qelem tie v scale zp).2 = fIsNaN (fdiv v scale) := by
  unfold qelem
  cases hn : fIsNaN (fdiv v scale) with
  | true => rfl
  | false =>
    rw [if_neg Bool.false_ne_true]
    split
    · rfl
    · split <;> rfl

end

/-- Settles O39, one branch after the other. -/
theorem elementQuantizerFollowsItsBranches : Obligations.ElementQuantizerFollowsItsBranches :=
  fun tie v scale zp => ⟨qelem_of_fIsNaN tie zp, qelem_of_posInf tie zp, qelem_of_negInf tie zp,
    qelem_of_fFinite tie zp, qelem_mem tie v scale zp⟩

/-! ### Quotients that are zeros (R102) -/

theorem fFinite_of_fIsZero {w : F32} (h : fIsZero w = true) : fFinite w = true := by
  obtain ⟨he, -⟩ : fExp w = 0 ∧ fFrac w = 0 := by simpa [fIsZero] using h
  simp [fFinite, he]

theorem fround_of_fIsZero (tie : RoundTie) {x : F32} (h : fIsZero x = true) : fround tie x = 0 := by
  obtain ⟨-, -, -, hint⟩ := roundMag_spec tie (fMag x)
  rw [(fIsZero_iff x).1 h] at hint
  have hzero : roundMag tie 0 = 0 := by have := hint (dvd_zero _); omega
  obtain ⟨hr, -⟩ | ⟨hr, -⟩ := fround_cases tie x
  all_goals rw [hr, (fIsZero_iff x).1 h, hzero]; rfl

theorem qelem_of_fIsZero (tie : RoundTie) {v scale : F32} (zp : Int) (h : fIsZero (fdiv v scale) = true) :
    qelem tie v scale zp = (clamp8 zp, false) := by
  rw [qelem_of_fFinite tie zp (fFinite_of_fIsZero h), fround_of_fIsZero tie h, Int.zero_add]

theorem fIsZero_fZero (neg : Bool) : fIsZero (fZero neg) = true := by cases neg <;> decide

/-- A valid scale is finite and no zero (42_dequantize.md R122). -/
theorem fFinite_and_not_fIsZero_of_validScale {w : F32} (h : validScale w = true) :
    fFinite w = true ∧ fIsZero w = false := by
  obtain ⟨hfin, hgt⟩ : fFinite w = true ∧ fgt w (fZero false) = true := by simpa [validScale] using h
  have hzero : fIsNaN (fZero false) = false ∧ fUnits (fZero false) = 0 := by decide
  have hpos := (fgt_iff (fIsNaN_of_fFinite hfin) hzero.1).1 hgt
  refine ⟨hfin, Bool.eq_false_iff.2 fun hz => ?_⟩
  have := fUnits_natAbs w
  rw [(fIsZero_iff w).1 hz] at this
  omega

theorem fIsZero_fdiv_of_validScale {v scale : F32} (hv : fIsZero v = true) (hs : validScale scale = true) :
    fIsZero (fdiv v scale) = true := by
  obtain ⟨hfin, hzero⟩ := fFinite_and_not_fIsZero_of_validScale hs
  rw [fdiv_of_finite (fIsNaN_of_fIsZero hv) (fIsNaN_of_fFinite hfin) (fIsInf_false_of_fIsZero hv)
    (fIsInf_of_fFinite hfin) hzero, (fIsZero_iff v).1 hv, Nat.zero_mul, rnd32_zero]
  exact fIsZero_fZero _

theorem fIsZero_fdiv_of_fIsInf {v scale : F32} (hv : fFinite v = true) (hs : fIsInf scale = true) :
    fIsZero (fdiv v scale) = true := by
  rw [fdiv_of_fIsInf_right (fIsNaN_of_fFinite hv) (fIsNaN_of_fIsInf hs) hs, fIsInf_of_fFinite hv,
    if_neg Bool.false_ne_true]
  exact fIsZero_fZero _

/-- Settles O40: in both cases the quotient is a zero, which rounds to 0. -/
theorem zeroQuotientGivesTheClampedZeroPoint : Obligations.ZeroQuotientGivesTheClampedZeroPoint :=
  fun tie _ _ zp => ⟨fun hv hs => qelem_of_fIsZero tie zp (fIsZero_fdiv_of_validScale hv hs),
    fun hv hs => qelem_of_fIsZero tie zp (fIsZero_fdiv_of_fIsInf hv hs)⟩

/-! ### A datapath of bounded width (R112) -/

/-- Saturating to `[-p, p - 1]` before adding a 32-bit integer does not change the code where `p` is `2^33` or more: what
is cut off stands beyond both ends of the codes also after the addition. -/
theorem clamp8_saturated_add {p r zp : Int} (hp : 2 ^ 33 ≤ p) (hlow : -2 ^ 31 ≤ zp) (hhigh : zp ≤ 2 ^ 31 - 1) :
    clamp8 (max (-p) (min r (p - 1)) + zp) = clamp8 (r + zp) := by
  obtain hr | hr | ⟨hr, hr'⟩ : r < -p ∨ p - 1 < r ∨ (-p ≤ r ∧ r ≤ p - 1) := by omega
  · rw [(clampSaturatesAtBothEnds _).1 (by omega), (clampSaturatesAtBothEnds _).1 (by omega)]
  · rw [(clampSaturatesAtBothEnds _).2.1 (by omega), (clampSaturatesAtBothEnds _).2.1 (by omega)]
  · rw [min_eq_left hr', max_eq_right hr]

/-- Settles O41: `n` signed bits reach at least `2^33` in either direction. -/
theorem boundedDatapathGivesTheSameCode : Obligations.BoundedDatapathGivesTheSameCode := by
  intro n r zp hn hlow hhigh
  exact clamp8_saturated_add (pow_le_pow_right₀ (by norm_num) (by omega)) hlow hhigh

end Sys2Proof.Machine
end

section
/-! PROOF. `QUANTIZE` over its buffers (41_quantize.md R103 to R108): its errors, pass 2 through its memories, what it
leaves unchanged, and over disjoint buffers every code and the second run. -/

namespace Sys2Proof.Machine

open Sys2Proof

/-! ### Errors (R107) -/

theorem raiseError_emptyInput (s : State) : raiseError s .emptyInput = s.withStatus 0x00000011 := rfl

theorem raiseError_lengthMismatch (s : State) : raiseError s .lengthMismatch = s.withStatus 0x00000013 := rfl

/-- Settles O20. -/
theorem quantizeReportsEmptyInputAndLengthMismatch : Obligations.QuantizeReportsEmptyInputAndLengthMismatch :=
  fun s => ⟨fun h => (execQuantize_of_empty h).trans (congrArg _ (raiseError_emptyInput s)),
    fun h0 hl => (execQuantize_of_mismatch h0 hl).trans (congrArg _ (raiseError_lengthMismatch s))⟩

/-! ### The memories of pass 2 (R104) -/

/-- The last of `k + 1` codes, after the `k` before it. -/
theorem quantMem_succ (s : State) (scale : F32) (zp : Int) (k i : Nat) (m : Memory) :
    quantMem s scale zp (k + 1) i m =
      Memory.write (quantMem s scale zp k i m) (i8Addr s (i + k)).toNat (BitVec.ofInt 8
        (qelem s.params.roundTie (Memory.readLE (quantMem s scale zp k i m) (f32Addr s (i + k)).toNat .w4) scale
          zp).1) := by
  induction k generalizing i m with
  | zero => rfl
  | succ k ih => rw [quantMem, ih, show i + 1 + k = i + (k + 1) by omega]; rfl

theorem quantNv_succ (s : State) (scale : F32) (zp : Int) (k i : Nat) (m : Memory) :
    quantNv s scale zp (k + 1) i m = (quantNv s scale zp k i m ||
      (qelem s.params.roundTie (Memory.readLE (quantMem s scale zp k i m) (f32Addr s (i + k)).toNat .w4) scale
        zp).2) := by
  induction k generalizing i m with
  | zero => simp [quantNv, quantMem]
  | succ k ih => rw [quantNv, ih, show i + 1 + k = i + (k + 1) by omega, ← Bool.or_assoc]; rfl

/-- The `nv` bits of pass 2, each element read from the memory that the earlier codes have left. -/
theorem quantNv_eq_any (s : State) (scale : F32) (zp : Int) (n : Nat) :
    quantNv s scale zp n 0 s.mem = (List.range n).any fun i =>
      (qelem s.params.roundTie (Memory.readLE (quantMem s scale zp i 0 s.mem) (f32Addr s i).toNat .w4) scale zp).2 := by
  induction n with
  | zero => rfl
  | succ n ih => simp [quantNv_succ, ih, List.range_succ]

theorem bufferRange_eq (s : State) (n : Nat) :
    bufferRange s n = range (f32Elem s 0) ((List.range (n - 1)).map fun j => f32Elem s (j + 1)) := by
  simp only [bufferRange, Nat.add_comm 1]

/-- The fields of the state a successful `QUANTIZE` leaves (R106). -/
theorem quantized_eq_fields {s : State} {n : Nat} {nv : Bool}
    (h : quantNv s (bufferCalib s n).1 (bufferCalib s n).2.1 n 0 s.mem = nv) :
    quantized s n = { s with
      minReg := (bufferRange s n).1
      maxReg := (bufferRange s n).2
      scale := (bufferCalib s n).1
      zp := BitVec.ofInt 32 (bufferCalib s n).2.1
      mem := quantMem s (bufferCalib s n).1 (bufferCalib s n).2.1 n 0 s.mem
      status := statusWord 0 true ((bufferCalib s n).2.2 || nv) } := by
  apply State.ext <;> simp [quantized, h]

theorem quantized_mem (s : State) (n : Nat) :
    (quantized s n).mem = quantMem s (bufferCalib s n).1 (bufferCalib s n).2.1 n 0 s.mem := by
  simp [quantized]

/-- Settles O43: the memories of the statement are those of `quantMem` after each number of codes. -/
theorem quantizeRunsItsTwoPasses : Obligations.QuantizeRunsItsTwoPasses := by
  intro s
  obtain ⟨hempty, hmismatch⟩ := quantizeReportsEmptyInputAndLengthMismatch s
  refine ⟨hempty, hmismatch, fun h0 hl hin => ⟨bufferRange s s.f32Len.toNat, bufferCalib s s.f32Len.toNat,
    fun i => quantMem s (bufferCalib s s.f32Len.toNat).1 (bufferCalib s s.f32Len.toNat).2.1 i 0 s.mem,
    bufferRange_eq s _, rfl, rfl, fun i _ => ?_, ?_⟩⟩
  · simpa only [Nat.zero_add] using quantMem_succ s _ _ i 0 s.mem
  · exact (execQuantize_of_inside h0 hl hin).trans (congrArg _ (quantized_eq_fields (quantNv_eq_any s _ _ _)))

/-! ### The frame (R105, R106) -/

theorem byte_quantized_other {s : State} {n a : Nat} (h : ∀ i < n, a ≠ (i8Addr s i).toNat) :
    Memory.byte (quantized s n).mem a = Memory.byte s.mem a := by
  rw [quantized_mem]
  exact quantMem_byte_other s _ _ s.mem fun j _ hj => h j (by omega)

/-- Settles O45: an error changes `STATUS` only, and pass 2 writes no byte but its elements. -/
theorem quantizeFrame : Obligations.QuantizeFrame := by
  intro s t h
  obtain ⟨-, rfl⟩ | ⟨-, -, rfl⟩ | ⟨-, -, -, rfl⟩ := execQuantize_eq_next h
  · exact ⟨rfl, fun _ _ => rfl⟩
  · exact ⟨rfl, fun _ _ => rfl⟩
  · exact ⟨by apply State.ext <;> simp [quantized], fun _ => byte_quantized_other⟩

/-! ### Disjoint buffers inside MEM (70_reset_and_hazards.md R165, R166) -/

theorem toNat_f32Addr_of_inside {s : State} {i : Nat} (h : f32BufferInside s) (hi : i < s.f32Len.toNat) :
    (f32Addr s i).toNat = s.f32Base.toNat + 4 * i := by
  have hsize := s.memSize_le
  exact Nat.mod_eq_of_lt (by omega)

theorem toNat_i8Addr_of_inside {s : State} {i : Nat} (h : i8BufferInside s) (hi : i < s.i8Len.toNat) :
    (i8Addr s i).toNat = s.i8Base.toNat + i := by
  have hsize := s.memSize_le
  exact Nat.mod_eq_of_lt (by omega)

/-- Each of the first `n` codes has a byte of its own, and none of these is a byte of one of the first `n` elements of
the F32 buffer: what pass 2 needs of disjoint buffers. -/
structure SeparateElements (s : State) (n : Nat) : Prop where
  codes : ∀ i < n, ∀ j < n, (i8Addr s i).toNat = (i8Addr s j).toNat → i = j
  source : ∀ i < n, ∀ j < n, ∀ b < 4, (f32Addr s i).toNat + b ≠ (i8Addr s j).toNat

theorem separateElements_of_disjoint {s : State} (hl : s.f32Len = s.i8Len) (hf : f32BufferInside s)
    (hi : i8BufferInside s) (hd : buffersDisjoint s) : SeparateElements s s.f32Len.toNat := by
  have hcode : ∀ j < s.f32Len.toNat, (i8Addr s j).toNat = s.i8Base.toNat + j :=
    fun j hj => toNat_i8Addr_of_inside hi (hl ▸ hj)
  refine ⟨fun i hi' j hj he => ?_, fun i hi' j hj b hb => ?_⟩
  · rw [hcode i hi', hcode j hj] at he
    omega
  · rw [hcode j hj, toNat_f32Addr_of_inside hf hi']
    rw [buffersDisjoint, ← hl] at hd
    omega

namespace SeparateElements

variable {s : State} {n : Nat}

/-- Pass 2 leaves the elements of the F32 buffer. -/
theorem sameElements (h : SeparateElements s n) (scale : F32) (zp : Int) {k : Nat} (hk : k ≤ n) :
    SameElements s 0 n s.mem (quantMem s scale zp k 0 s.mem) := by
  intro i hi b hb
  rw [Nat.zero_add]
  exact quantMem_byte_other s scale zp s.mem fun j _ hj => h.source i hi j (by omega) b hb

theorem readLE_quantMem (h : SeparateElements s n) (scale : F32) (zp : Int) {k i : Nat} (hk : k ≤ n) (hi : i < n) :
    Memory.readLE (quantMem s scale zp k 0 s.mem) (f32Addr s i).toNat .w4 = f32Elem s i := by
  have hread := (h.sameElements scale zp hk).readLE hi
  rwa [Nat.zero_add] at hread

/-- After `k` codes each of them stands in memory as a written byte, converted from the original element. -/
theorem find?_quantMem (h : SeparateElements s n) (scale : F32) (zp : Int) {k i : Nat} (hk : k ≤ n) (hi : i < k) :
    Memory.find? (quantMem s scale zp k 0 s.mem) (i8Addr s i).toNat =
      some (BitVec.ofInt 8 (qelem s.params.roundTie (f32Elem s i) scale zp).1) := by
  induction k with
  | zero => exact absurd hi (Nat.not_lt_zero i)
  | succ k ih =>
    rw [quantMem_succ, Nat.zero_add, Memory.find?_write]
    by_cases he : i = k
    · rw [if_pos (by rw [he]), he, h.readLE_quantMem scale zp (by omega) (by omega)]
    · rw [if_neg (mt (h.codes i (by omega) k (by omega)) he)]
      exact ih (by omega) (by omega)

theorem byte_quantMem (h : SeparateElements s n) (scale : F32) (zp : Int) {i : Nat} (hi : i < n) :
    Memory.byte (quantMem s scale zp n 0 s.mem) (i8Addr s i).toNat =
      BitVec.ofInt 8 (qelem s.params.roundTie (f32Elem s i) scale zp).1 := by
  rw [Memory.byte, h.find?_quantMem scale zp le_rfl hi, Option.getD_some]

theorem quantNv_eq (h : SeparateElements s n) (scale : F32) (zp : Int) :
    quantNv s scale zp n 0 s.mem =
      (List.range n).any fun i => (qelem s.params.roundTie (f32Elem s i) scale zp).2 := by
  rw [quantNv_eq_any, Bool.eq_iff_iff, List.any_eq_true, List.any_eq_true]
  refine exists_congr fun i => and_congr_right fun hi => ?_
  have hlt := List.mem_range.1 hi
  rw [h.readLE_quantMem scale zp hlt.le hlt]

end SeparateElements

/-- Settles O44, from pass 2 over separate elements. -/
theorem quantizeOfDisjointBuffersGivesEveryCode : Obligations.QuantizeOfDisjointBuffersGivesEveryCode := by
  intro s h0 hl hf hi hd
  have hsep := separateElements_of_disjoint hl hf hi hd
  have hcode : ∀ i < s.f32Len.toNat, (i8Addr s i).toNat = s.i8Base.toNat + i :=
    fun i hlt => toNat_i8Addr_of_inside hi (hl ▸ hlt)
  refine ⟨quantized s s.f32Len.toNat, bufferRange s s.f32Len.toNat, bufferCalib s s.f32Len.toNat,
    bufferRange_eq s _, rfl, execQuantize_of_inside h0 hl (accessesInside_of_buffers hf (hl ▸ hi)),
    quantized_eq_fields (hsep.quantNv_eq _ _), fun i hlt => ?_, fun a ha => byte_quantized_other fun i hlt => ?_⟩
  · rw [← hcode i hlt]
    exact hsep.byte_quantMem _ _ hlt
  · rw [hcode i hlt]
    rw [← hl] at ha
    omega

/-! ### A second run (R108) -/

/-- Pass 2 changes nothing in a canonical memory that holds its codes as written bytes. -/
theorem quantMem_eq_self {s : State} {scale : F32} {zp : Int} {n : Nat} {m : Memory} (hwf : Memory.wf m)
    (h : ∀ i < n, Memory.find? m (i8Addr s i).toNat =
      some (BitVec.ofInt 8 (qelem s.params.roundTie (Memory.readLE m (f32Addr s i).toNat .w4) scale zp).1)) :
    quantMem s scale zp n 0 m = m := by
  induction n with
  | zero => rfl
  | succ n ih =>
    rw [quantMem_succ, ih fun i hi => h i (by omega), Nat.zero_add]
    exact Memory.write_eq_self hwf (h n (by omega))

theorem wf_quantMem {m : Memory} (s : State) (scale : F32) (zp : Int) (k i : Nat) (h : Memory.wf m) :
    Memory.wf (quantMem s scale zp k i m) := by
  induction k generalizing i m with
  | zero => exact h
  | succ k ih => exact ih _ (Memory.wf_write _ _ h)

theorem sameDescriptors_quantized (s : State) (n : Nat) : SameDescriptors s (quantized s n) := by
  constructor <;> simp [quantized]

/-- The second run finds the same descriptors and the same elements, and writes the bytes that already stand there. -/
theorem SeparateElements.quantized_quantized {s : State} {n : Nat} (h : SeparateElements s n) (hn : 0 < n)
    (hwf : Memory.wf s.mem) : quantized (quantized s n) n = quantized s n := by
  have hmem : quantMem s (bufferCalib s n).1 (bufferCalib s n).2.1 n 0 (quantized s n).mem = (quantized s n).mem := by
    rw [quantized_mem]
    refine quantMem_eq_self (wf_quantMem s _ _ n 0 hwf) fun i hi => ?_
    rw [h.readLE_quantMem _ _ le_rfl hi]
    exact h.find?_quantMem _ _ le_rfl hi
  rw [(sameDescriptors_quantized s n).quantized_eq hn (h.sameElements _ _ le_rfl), hmem]

/-- Settles O47: an error is raised again, and a completed run changes nothing the second time. -/
theorem quantizeTwiceGivesTheSameState : Obligations.QuantizeTwiceGivesTheSameState := by
  intro s t hwf hf hi hd h
  obtain ⟨h0, rfl⟩ | ⟨h0, hl, rfl⟩ | ⟨h0, hl, hin, rfl⟩ := execQuantize_eq_next h
  · exact (execQuantize_withStatus s _).trans h
  · exact (execQuantize_withStatus s _).trans h
  · have hsep := separateElements_of_disjoint hl hf hi hd
    have hcases := (sameDescriptors_quantized s s.f32Len.toNat).execQuantize_cases h0 hl
    obtain ⟨hstop, -⟩ | ⟨-, hagain⟩ := hcases
    · cases hstop.symm.trans h
    · rw [hsep.quantized_quantized (f32Len_toNat_pos h0) hwf] at hagain
      exact hagain

end Sys2Proof.Machine
end

section
/-! PROOF. The meaning of `STATUS.NV` after a `QUANTIZE` without error (41_quantize.md R109). -/

namespace Sys2Proof.Machine

open Sys2Proof

/-! ### NV of the zero-point -/

/-- Truncating raises no `nv` exactly on a finite value whose truncation fits 32 bits (00_scope.md R14). -/
theorem ftruncSat32_nv_eq_false_iff (x : F32) :
    (ftruncSat32 x).2 = false ↔ fFinite x = true ∧ -2 ^ 31 ≤ fTrunc x ∧ fTrunc x ≤ 2 ^ 31 - 1 := by
  obtain ⟨hn, -, hf⟩ | ⟨hn, hi, hf⟩ | ⟨-, -, hf⟩ := fKinds x
  · simp [ftruncSat32, hn, hf]
  · cases hs : fSign x <;> simp [ftruncSat32, hn, hi, hf, hs]
  · rw [ftruncSat32_of_fFinite hf]
    split
    · exact iff_of_false Bool.false_ne_true.symm fun ⟨_, hlow, hhigh⟩ => by omega
    · split
      · exact iff_of_false Bool.false_ne_true.symm fun ⟨_, hlow, hhigh⟩ => by omega
      · exact iff_of_true rfl ⟨hf, by omega, by omega⟩

/-! ### Words that are not finite -/

section
variable {a b : F32}

theorem fFinite_eq_false_iff (w : F32) : fFinite w = false ↔ fIsNaN w = true ∨ fIsInf w = true := by
  obtain ⟨hn, hi, hf⟩ | ⟨hn, hi, hf⟩ | ⟨hn, hi, hf⟩ := fKinds w <;> simp [hn, hi, hf]

theorem fFinite_fNaN : fFinite fNaN = false := by decide

theorem fFinite_fInf (neg : Bool) : fFinite (fInf neg) = false := by cases neg <;> decide

/-- A difference is finite only of finite operands. -/
theorem fFinite_fsub_eq_false (h : fFinite a = false ∨ fFinite b = false) : fFinite (fsub a b) = false := by
  by_cases hn : fIsNaN a = true ∨ fIsNaN b = true
  · rw [(arith_of_fIsNaN hn).1]
    exact fFinite_fNaN
  · obtain ⟨ha, hb⟩ : fIsNaN a = false ∧ fIsNaN b = false := by simpa using hn
    cases hi : fIsInf a with
    | true =>
      rw [fsub_of_fIsInf_left ha hb hi]
      split
      · exact fFinite_fNaN
      · exact (fFinite_eq_false_iff a).2 (.inr hi)
    | false =>
      have hj : fIsInf b = true := by simpa [fFinite_eq_false_iff, ha, hb, hi] using h
      rw [fsub_of_fIsInf_right ha hb hi hj]
      exact fFinite_fInf _

/-- The quotient of two words that are not finite is a NaN. -/
theorem fIsNaN_fdiv_of_not_fFinite (ha : fFinite a = false) (hb : fFinite b = false) : fIsNaN (fdiv a b) = true := by
  by_cases hn : fIsNaN a = true ∨ fIsNaN b = true
  · rw [(arith_of_fIsNaN hn).2.2]; decide
  · obtain ⟨hna, hnb⟩ : fIsNaN a = false ∧ fIsNaN b = false := by simpa using hn
    have hia : fIsInf a = true := by simpa [hna] using (fFinite_eq_false_iff a).1 ha
    have hib : fIsInf b = true := by simpa [hnb] using (fFinite_eq_false_iff b).1 hb
    rw [fdiv_of_fIsInf_right hna hnb hib, if_pos hia]; decide

/-- The quotient of a finite word by one that is neither a NaN nor a zero is no NaN. -/
theorem fIsNaN_fdiv_of_fFinite (ha : fFinite a = true) (hb : fIsNaN b = false) (hz : fIsZero b = false) :
    fIsNaN (fdiv a b) = false := by
  cases hi : fIsInf b with
  | true => exact fIsNaN_of_fIsZero (fIsZero_fdiv_of_fIsInf ha hi)
  | false =>
    rw [fdiv_of_finite (fIsNaN_of_fFinite ha) hb (fIsInf_of_fFinite ha) hi hz]
    exact fIsNaN_rnd32 _ _ _

end

/-- A range with an end that is not finite has a scale that is not finite. -/
theorem fFinite_calibScale_eq_false {mn mx : F32} (h : fFinite mn = false ∨ fFinite mx = false) :
    fFinite (calibScale mn mx) = false := by
  have hquot : fFinite (fdiv (fsub mx mn) fQspan) = false := by
    obtain hn | hi := (fFinite_eq_false_iff _).1 (fFinite_fsub_eq_false h.symm)
    · rw [(arith_of_fIsNaN (.inl hn)).2.2]
      exact fFinite_fNaN
    · rw [fdiv_fQspan_of_fIsInf hi]
      exact (fFinite_eq_false_iff _).2 (.inr hi)
  have hzero : fIsZero (fdiv (fsub mx mn) fQspan) = false :=
    Bool.eq_false_iff.2 fun hz => Bool.false_ne_true (hquot.symm.trans (fFinite_of_fIsZero hz))
  rw [calibScale_of_not_fIsZero hzero, hquot]

/-! ### NV of the elements -/

/-- The magnitude of an infinity lies above those of the finite words (log 23). -/
theorem fFinite_of_fMag_le {w : F32} (hn : fIsNaN w = false) (h : fMag w ≤ (2 ^ 24 - 1) * 2 ^ 253) :
    fFinite w = true := by
  by_contra hf
  have hi : fIsInf w = true := by simpa [hn] using (fFinite_eq_false_iff w).1 (Bool.eq_false_iff.2 hf)
  obtain ⟨he, hf⟩ : fExp w = 255 ∧ fFrac w = 0 := by simpa [fIsInf] using hi
  rw [fMag, if_neg (by omega), he, hf] at h
  omega

/-- Where both ends of the range are finite, so is every element that is no NaN. -/
theorem fFinite_of_range {v w : F32} {vs : List F32} (hmn : fFinite (range v vs).1 = true)
    (hmx : fFinite (range v vs).2 = true) (hw : w ∈ v :: vs) (hn : fIsNaN w = false) : fFinite w = true := by
  have hv : fIsNaN v = false := by
    by_contra hv
    rw [(rangeCornerCases v vs).2.2.1 (Bool.eq_true_of_not_eq_false hv)] at hmn
    exact hv (fIsNaN_of_fFinite hmn)
  obtain ⟨hlow, hhigh⟩ := range_bounds hv hw hn
  have hmin := fMag_le hmn
  have hmax := fMag_le hmx
  rw [← fUnits_natAbs] at hmin hmax
  refine fFinite_of_fMag_le hn ?_
  rw [← fUnits_natAbs]
  omega

/-- No element has a NaN quotient by the scale of the range exactly where all elements are finite: an infinite element
makes the scale an infinity or a NaN. -/
theorem forall_fIsNaN_fdiv_calibScale_iff (v : F32) (vs : List F32) :
    (∀ w ∈ v :: vs, fIsNaN (fdiv w (calibScale (range v vs).1 (range v vs).2)) = false) ↔
      ∀ w ∈ v :: vs, fFinite w = true := by
  constructor
  · intro h w hw
    by_contra hf
    have hfin : fFinite w = false := Bool.eq_false_iff.2 hf
    have hq : ¬ fIsNaN (fdiv w (calibScale (range v vs).1 (range v vs).2)) = true := by simp [h w hw]
    have hn : fIsNaN w = false := Bool.eq_false_iff.2 fun hn => hq (by rw [(arith_of_fIsNaN (.inl hn)).2.2]; decide)
    refine hq (fIsNaN_fdiv_of_not_fFinite hfin (fFinite_calibScale_eq_false ?_))
    by_contra hends
    obtain ⟨hmn, hmx⟩ : fFinite (range v vs).1 = true ∧ fFinite (range v vs).2 = true := by simpa using hends
    exact hf (fFinite_of_range hmn hmx hw hn)
  · intro h w hw
    obtain ⟨-, hends⟩ := rangeGivesTheMinimumAndMaximum v vs
    obtain ⟨hmn, hmx, -, hle, -⟩ := hends h
    obtain ⟨hn, hz, -, -⟩ := calibScale_of_ordered (h _ hmn) (h _ hmx) hle
    exact fIsNaN_fdiv_of_fFinite (h w hw) hn hz

/-! ### STATUS.NV -/

theorem statusErr_raiseError (s : State) (k : ErrorKind) : statusErr (raiseError s k).status = k.code := by
  rw [raiseError_status]
  cases k <;> decide

theorem statusNv_done (nv : Bool) : statusNv (statusWord 0 true nv) = nv := by
  cases nv <;> decide

/-- A `QUANTIZE` without error is one that went through its buffers. -/
theorem quantized_of_statusErr_eq_zero {s t : State} (h : execQuantize s = .next t) (he : statusErr t.status = 0) :
    s.f32Len ≠ 0 ∧ s.f32Len = s.i8Len ∧ t = quantized s s.f32Len.toNat := by
  obtain ⟨-, rfl⟩ | ⟨-, -, rfl⟩ | ⟨h0, hl, -, ht⟩ := execQuantize_eq_next h
  · rw [statusErr_raiseError] at he
    exact absurd he (by decide)
  · rw [statusErr_raiseError] at he
    exact absurd he (by decide)
  · exact ⟨h0, hl, ht⟩

/-- The list over which `RANGE` runs is that of the elements in order. -/
theorem mem_bufferElements_iff {s : State} {n : Nat} (hn : 0 < n) {w : F32} :
    w ∈ f32Elem s 0 :: (List.range (n - 1)).map (fun j => f32Elem s (1 + j)) ↔ ∃ i < n, f32Elem s i = w := by
  simp only [List.mem_cons, List.mem_map, List.mem_range]
  constructor
  · rintro (rfl | ⟨j, hj, rfl⟩)
    · exact ⟨0, hn, rfl⟩
    · exact ⟨1 + j, by omega, rfl⟩
  · rintro ⟨_ | i, hi, rfl⟩
    · exact .inl rfl
    · exact .inr ⟨i, by omega, by rw [Nat.add_comm]⟩

theorem forall_fIsNaN_fdiv_bufferCalib_iff (s : State) {n : Nat} (hn : 0 < n) :
    (∀ i < n, fIsNaN (fdiv (f32Elem s i) (bufferCalib s n).1) = false) ↔ ∀ i < n, fFinite (f32Elem s i) = true := by
  have h : (∀ w ∈ f32Elem s 0 :: (List.range (n - 1)).map (fun j => f32Elem s (1 + j)),
      fIsNaN (fdiv w (bufferCalib s n).1) = false) ↔ _ := forall_fIsNaN_fdiv_calibScale_iff _ _
  simpa only [mem_bufferElements_iff hn, forall_exists_index, and_imp, forall_apply_eq_imp_iff₂] using h

/-- `NV` over separate elements is clear exactly where neither the zero-point nor a quotient has raised it. -/
theorem SeparateElements.statusNv_quantized_iff {s : State} {n : Nat} (h : SeparateElements s n) :
    statusNv (quantized s n).status = false ↔
      (bufferCalib s n).2.2 = false ∧ ∀ i < n, fIsNaN (fdiv (f32Elem s i) (bufferCalib s n).1) = false := by
  rw [quantized_eq_fields (h.quantNv_eq _ _)]
  simp only [statusNv_done, Bool.or_eq_false_iff, List.any_eq_false, List.mem_range, qelem_nv, Bool.not_eq_true]

/-- Settles O48: the zero-point's bit by `ftruncSat32_nv_eq_false_iff`, the elements' by their quotients. -/
theorem nvIsClearExactlyOnTheDefinedDomain : Obligations.NvIsClearExactlyOnTheDefinedDomain := by
  intro s t hf hi hd h he
  obtain ⟨h0, hl, rfl⟩ := quantized_of_statusErr_eq_zero h he
  have hends : (quantized s s.f32Len.toNat).minReg = (bufferRange s s.f32Len.toNat).1 ∧
      (quantized s s.f32Len.toNat).maxReg = (bufferRange s s.f32Len.toNat).2 := by simp [quantized]
  rw [(separateElements_of_disjoint hl hf hi hd).statusNv_quantized_iff,
    forall_fIsNaN_fdiv_bufferCalib_iff s (f32Len_toNat_pos h0), hends.1, hends.2, and_comm]
  exact and_congr_right' (ftruncSat32_nv_eq_false_iff _)

end Sys2Proof.Machine
end

section
/-! PROOF. The dequantizer (42_dequantize.md R120 to R125): which words are valid scales, and the sign of a dequantized
value. -/

namespace Sys2Proof.Machine

open Sys2Proof

/-! ### Valid scales (R122) -/

/-- The word stands above `+0` exactly when its sign is positive and it is no zero. -/
theorem validScale_iff (w : F32) :
    validScale w = true ↔ fFinite w = true ∧ fSign w = false ∧ fIsZero w = false := by
  have hzero : fIsNaN (fZero false) = false ∧ fUnits (fZero false) = 0 := by decide
  rw [validScale, Bool.and_eq_true]
  refine and_congr_right fun hfin => ?_
  rw [fgt_iff (fIsNaN_of_fFinite hfin) hzero.1, hzero.2, ← Bool.not_eq_true (fIsZero w), fIsZero_iff]
  obtain ⟨hs, hu⟩ | ⟨hs, hu⟩ := fUnits_cases w
  · rw [hu, hs]
    exact iff_of_false (by omega) fun h => Bool.false_ne_true h.1.symm
  · rw [hu, hs, and_iff_right rfl]
    omega

/-- Settles O26: of the words with a positive sign, only `+0` and those with exponent 255 are left out. -/
theorem validScalesAreThePositiveFiniteWords : Obligations.ValidScalesAreThePositiveFiniteWords := by
  intro w
  have hw := toNat_eq_fields w
  have he := fExp_lt w
  have hf := fFrac_lt w
  have hzero : fIsZero w = false ↔ ¬ (fExp w = 0 ∧ fFrac w = 0) := by
    rw [← Bool.not_eq_true]; simp [fIsZero]
  rw [validScale_iff, fFinite_iff, hzero]
  cases hs : fSign w with
  | true =>
    rw [hs, if_pos rfl] at hw
    exact iff_of_false (fun ⟨_, h, _⟩ => Bool.false_ne_true h.symm) (by omega)
  | false =>
    rw [hs, if_neg Bool.false_ne_true] at hw
    simp only [true_and]
    omega

/-! ### The sign of a dequantized value (R125) -/

/-- An integer of up to 32 bits and a sign does not overflow, and a non-zero one rounds to no less than 1.0 in
magnitude: 1.0 is a word, and none is nearer to the integer than its rounding. -/
theorem i2f_of_ne_zero {z : Int} (h0 : z ≠ 0) (hz : z.natAbs ≤ 2 ^ 32) :
    fFinite (i2f z) = true ∧ fSign (i2f z) = decide (z < 0) ∧ 2 ^ 149 ≤ fMag (i2f z) := by
  obtain ⟨-, hround⟩ := roundingGivesTheNearestWordTiesToEven (decide (z < 0)) (z.natAbs * 2 ^ 149) 1 Nat.one_pos
  obtain ⟨hfin, hsign, hnearest⟩ := hround (by omega)
  refine ⟨hfin, hsign, ?_⟩
  rw [← i2f] at hnearest
  rw [← fUnits_natAbs]
  by_cases hneg : z < 0
  · have hone : fFinite 0xBF800000 = true ∧ fUnits 0xBF800000 = -2 ^ 149 := by decide
    obtain ⟨hle, -⟩ := hnearest _ hone.1
    rw [hone.2, if_pos (decide_eq_true hneg)] at hle
    omega
  · have hone : fFinite 0x3F800000 = true ∧ fUnits 0x3F800000 = 2 ^ 149 := by decide
    obtain ⟨hle, -⟩ := hnearest _ hone.1
    rw [hone.2, if_neg (by simpa using hneg)] at hle
    omega

theorem i2f_zero : i2f 0 = fZero false := by decide

section
variable {code zp : Int} {scale : F32}

/-- The product with a valid scale, which is positive, is rounded with the sign of the converted difference. -/
theorem dq_of_validScale (hd : fFinite (i2f (code - zp)) = true) (hs : validScale scale = true) :
    dq code scale zp = rnd32 (fSign (i2f (code - zp))) (fMag (i2f (code - zp)) * fMag scale) (2 ^ 149) := by
  obtain ⟨hfin, hsign, -⟩ := (validScale_iff scale).1 hs
  rw [dq, fmul_of_finite (fIsNaN_of_fFinite hd) (fIsNaN_of_fFinite hfin) (fIsInf_of_fFinite hd)
    (fIsInf_of_fFinite hfin), hsign, Bool.xor_false]

theorem dq_self (hs : validScale scale = true) : dq code scale code = 0x00000000 := by
  have hzero : fFinite (fZero false) = true ∧ fSign (fZero false) = false ∧ fMag (fZero false) = 0 := by decide
  have hi : i2f (code - code) = fZero false := by rw [Int.sub_self, i2f_zero]
  rw [dq_of_validScale (hi ▸ hzero.1) hs, hi, hzero.2.1, hzero.2.2, Nat.zero_mul, rnd32_zero]
  rfl

/-- A difference of at least 1.0 times at least one unit stays a whole unit away from zero. -/
theorem dq_of_ne (hne : code ≠ zp) (hz : (code - zp).natAbs ≤ 2 ^ 32) (hs : validScale scale = true) :
    fIsNaN (dq code scale zp) = false ∧ fIsZero (dq code scale zp) = false ∧
      fSign (dq code scale zp) = decide (code < zp) := by
  obtain ⟨hfin, hsign, hmag⟩ := i2f_of_ne_zero (sub_ne_zero.2 hne) hz
  obtain ⟨-, -, hpos⟩ := (validScale_iff scale).1 hs
  rw [← Bool.not_eq_true, fIsZero_iff] at hpos
  rw [dq_of_validScale hfin hs, fSign_rnd32, hsign]
  refine ⟨fIsNaN_rnd32 _ _ _, ?_, by simp only [sub_neg]⟩
  rw [← Bool.not_eq_true, fIsZero_rnd32_iff _ _ (Nat.two_pow_pos 149)]
  have hprod := Nat.mul_le_mul hmag (Nat.pos_of_ne_zero hpos)
  omega

end

/-- Settles O42: the difference is an exact integer, so it is a zero only where the code equals the zero-point. -/
theorem dequantizedSignFollowsTheDifference : Obligations.DequantizedSignFollowsTheDifference := by
  intro code zp scale hcode hcode' hzp hzp' hs
  by_cases heq : code = zp
  · subst heq
    rw [dq_self hs]
    exact ⟨by decide, fun _ => rfl, fun hne => absurd rfl hne⟩
  · obtain ⟨hnan, hzero, hsign⟩ := dq_of_ne heq (by omega) hs
    exact ⟨hnan, fun h => absurd h heq, fun _ => ⟨hzero, hsign⟩⟩

end Sys2Proof.Machine
end

section
/-! PROOF. `DEQ` and `DEQB` (42_dequantize.md R123 to R128): their outcomes, what they leave unchanged, the memories
`DEQB` goes through, and over disjoint buffers every element. -/

namespace Sys2Proof.Machine

open Sys2Proof

/-! ### Outcomes (R123, R124, R128) -/

theorem raiseError_invalidScale (s : State) : raiseError s .invalidScale = s.withStatus 0x00000012 := rfl

theorem completeCommand_false (s : State) : completeCommand s false = s.withStatus 0x00000010 := rfl

theorem execDeq_of_validScale {s : State} (hv : validScale s.scale = true) :
    execDeq s = .next ((s.withDqResult (dq s.dqCode.toInt s.scale s.zp.toInt)).withStatus 0x00000010) := by
  rw [execDeq_eq, if_pos hv]
  rfl

theorem execDeq_of_invalidScale {s : State} (hv : validScale s.scale = false) :
    execDeq s = .next (s.withStatus 0x00000012) := by
  rw [execDeq_eq, if_neg (by simp [hv]), raiseError_invalidScale]

theorem dqResult_of_execDeq {s t : State} (h : execDeq s = .next t) (hv : validScale s.scale = true) :
    t.dqResult = dq s.dqCode.toInt s.scale s.zp.toInt := by
  obtain rfl := Host.Outcome.next.inj ((execDeq_of_validScale hv).symm.trans h)
  rfl

/-- Settles O21: the two updates of a successful `DEQ` are those of the statement. -/
theorem deqWritesItsResultOrReportsInvalidScale : Obligations.DeqWritesItsResultOrReportsInvalidScale :=
  fun _ => ⟨execDeq_of_validScale, execDeq_of_invalidScale⟩

theorem execDeqb_next_of_invalidScale {s : State} (hv : validScale s.scale = false) :
    execDeqb s = .next (s.withStatus 0x00000012) :=
  (execDeqb_of_invalidScale hv).trans (congrArg _ (raiseError_invalidScale s))

theorem execDeqb_next_of_mismatch {s : State} (hv : validScale s.scale = true) (hl : s.i8Len ≠ s.f32Len) :
    execDeqb s = .next (s.withStatus 0x00000013) :=
  (execDeqb_of_mismatch hv hl).trans (congrArg _ (raiseError_lengthMismatch s))

/-- A `DEQB` that goes through its loop changes memory and `STATUS`. -/
theorem execDeqb_next_of_inside {s : State} (hv : validScale s.scale = true) (hl : s.i8Len = s.f32Len)
    (hin : accessesInside s s.i8Len.toNat) :
    execDeqb s = .next ((s.withMem (deqMem s s.i8Len.toNat 0 s.mem)).withStatus 0x00000010) :=
  (execDeqb_of_inside hv hl hin).trans (congrArg _ (completeCommand_false _))

/-- Settles O22: with no elements there is no access that could lie outside MEM, and no answer is `EmptyInput`. -/
theorem deqbReportsItsOutcomeInStatus : Obligations.DeqbReportsItsOutcomeInStatus := by
  intro s
  refine ⟨execDeqb_next_of_invalidScale, execDeqb_next_of_mismatch, fun hv hi hf => ?_, fun hv hl t h => ?_,
    fun t h => ?_⟩
  · have hn : s.i8Len.toNat = 0 := by rw [hi]; rfl
    have hnext := execDeqb_next_of_inside hv (hi.trans hf.symm) fun i hlt => absurd (hn ▸ hlt) (Nat.not_lt_zero i)
    rw [hn] at hnext
    exact hnext
  · obtain ⟨hv', -⟩ | ⟨-, hne, -⟩ | ⟨-, -, -, rfl⟩ := execDeqb_eq_next h
    · exact absurd (hv.symm.trans hv') (by decide)
    · exact absurd hl hne
    · rfl
  · obtain ⟨-, rfl⟩ | ⟨-, -, rfl⟩ | ⟨-, -, -, rfl⟩ := execDeqb_eq_next h
    · rw [statusErr_raiseError]; decide
    · rw [statusErr_raiseError]; decide
    · rw [completeCommand_status]; decide

/-! ### Frames (R124, R127) -/

/-- Settles O46: an error changes `STATUS` only, `DEQ` writes no memory, and `DEQB` no byte but those of its
elements. -/
theorem dequantizeFrames : Obligations.DequantizeFrames := by
  intro s t
  constructor
  · intro h
    cases hv : validScale s.scale with
    | true =>
      obtain rfl := Host.Outcome.next.inj ((execDeq_of_validScale hv).symm.trans h)
      rfl
    | false =>
      obtain rfl := Host.Outcome.next.inj ((execDeq_of_invalidScale hv).symm.trans h)
      rfl
  · intro h
    obtain ⟨-, rfl⟩ | ⟨-, -, rfl⟩ | ⟨-, -, -, rfl⟩ := execDeqb_eq_next h
    · exact ⟨rfl, fun _ _ => rfl⟩
    · exact ⟨rfl, fun _ _ => rfl⟩
    · exact ⟨rfl, fun a ha => deqMem_byte_other s s.mem fun j _ hj => ha j (by omega)⟩

/-! ### The memories of DEQB (R126, R127) -/

/-- The last of `k + 1` elements, after the `k` before it. -/
theorem deqMem_succ (s : State) (k i : Nat) (m : Memory) :
    deqMem s (k + 1) i m = Memory.writeLE (deqMem s k i m) (f32Addr s (i + k)).toNat
      (dq (Memory.byte (deqMem s k i m) (i8Addr s (i + k)).toNat).toInt s.scale s.zp.toInt) 4 := by
  induction k generalizing i m with
  | zero => rfl
  | succ k ih => rw [deqMem, ih, show i + 1 + k = i + (k + 1) by omega]; rfl

/-- Settles O50: the memories of the statement are those of `deqMem` after each number of elements. -/
theorem deqbRunsItsLoop : Obligations.DeqbRunsItsLoop := by
  intro s
  refine ⟨execDeqb_next_of_invalidScale, execDeqb_next_of_mismatch, fun hv hl hin =>
    ⟨fun i => deqMem s i 0 s.mem, rfl, fun i _ => ?_, execDeqb_next_of_inside hv hl hin⟩⟩
  simpa only [Nat.zero_add] using deqMem_succ s i 0 s.mem

/-! ### Disjoint buffers inside MEM (70_reset_and_hazards.md R165, R166) -/

/-- The first `n` elements of the F32 buffer share no byte with each other. -/
def SeparateWords (s : State) (n : Nat) : Prop :=
  ∀ i < n, ∀ j < n, i ≠ j →
    (f32Addr s i).toNat + 4 ≤ (f32Addr s j).toNat ∨ (f32Addr s j).toNat + 4 ≤ (f32Addr s i).toNat

theorem separateWords_of_inside {s : State} (h : f32BufferInside s) : SeparateWords s s.f32Len.toNat := by
  intro i hi j hj hne
  rw [toNat_f32Addr_of_inside h hi, toNat_f32Addr_of_inside h hj]
  omega

theorem Memory.readLE_writeLE_w4_same (m : Memory) (a : Nat) (v : Word) :
    Memory.readLE (Memory.writeLE m a v 4) a .w4 = v :=
  (Memory.readLE_writeLE m a v .w4).trans ((BitVec.setWidth_eq _).trans (BitVec.setWidth_eq v))

theorem Memory.readLE_writeLE_w4_other (m : Memory) {a b : Nat} (v : Word) (h : a + 4 ≤ b ∨ b + 4 ≤ a) :
    Memory.readLE (Memory.writeLE m a v 4) b .w4 = Memory.readLE m b .w4 :=
  Memory.readLE_congr .w4 fun x hlow hhigh => Memory.byte_writeLE_outside m v <| by
    rw [AccessWidth.bytes] at hhigh
    omega

/-- The loop leaves the codes that are apart from the elements it writes. -/
theorem SeparateElements.code_deqMem {s : State} {n k i : Nat} (h : SeparateElements s n) (hk : k ≤ n) (hi : i < n) :
    (Memory.byte (deqMem s k 0 s.mem) (i8Addr s i).toNat).toInt = i8Elem s i := by
  rw [deqMem_byte_other s s.mem fun j _ hj => ?_, i8Elem]
  have hapart := h.source j (by omega) i hi ((i8Addr s i).toNat - (f32Addr s j).toNat)
  omega

/-- After `k` elements each of them holds the dequantized original code. -/
theorem SeparateElements.readLE_deqMem {s : State} {n k i : Nat} (h : SeparateElements s n) (hw : SeparateWords s n)
    (hk : k ≤ n) (hi : i < k) :
    Memory.readLE (deqMem s k 0 s.mem) (f32Addr s i).toNat .w4 = dq (i8Elem s i) s.scale s.zp.toInt := by
  induction k with
  | zero => exact absurd hi (Nat.not_lt_zero i)
  | succ k ih =>
    rw [deqMem_succ, Nat.zero_add, h.code_deqMem (by omega) (by omega)]
    by_cases he : i = k
    · rw [he, Memory.readLE_writeLE_w4_same]
    · rw [Memory.readLE_writeLE_w4_other _ _ (hw k (by omega) i (by omega) (Ne.symm he))]
      exact ih (by omega) (by omega)

/-- Settles O51, from the loop over separate elements. -/
theorem deqbOfDisjointBuffersGivesEveryElement : Obligations.DeqbOfDisjointBuffersGivesEveryElement := by
  intro s hv hl hf hi hd
  have hsep := separateElements_of_disjoint hl.symm hf hi hd
  have hin : accessesInside s s.i8Len.toNat := accessesInside_of_buffers (hl ▸ hf) hi
  refine ⟨_, execDeqb_next_of_inside hv hl hin, rfl, fun i hlt => ?_, fun a ha => ?_⟩
  · rw [hl] at hlt ⊢
    exact hsep.readLE_deqMem (separateWords_of_inside hf) le_rfl hlt
  · refine deqMem_byte_other s s.mem fun j _ hj => ?_
    rw [hl, Nat.zero_add] at hj
    rw [toNat_f32Addr_of_inside hf hj]
    omega

/-- Settles O52: both results are the dequantized code. -/
theorem deqbElementsAgreeWithDeq : Obligations.DeqbElementsAgreeWithDeq := by
  intro s t u i hv hl hf hi hd hlt hdeqb hdeq
  obtain ⟨t', ht', -, helem, -⟩ := deqbOfDisjointBuffersGivesEveryElement s hv hl hf hi hd
  obtain rfl := Host.Outcome.next.inj (ht'.symm.trans hdeqb)
  exact (helem i hlt).trans (dqResult_of_execDeq hdeq hv).symm

end Sys2Proof.Machine
end

section
/-! PROOF. Errors and `STATUS` (60_exceptions.md R144 to R148): the two ways a command ends, which errors each command
can raise and which comes first, and that nothing but a command or a reset changes `STATUS`. -/

namespace Sys2Proof.Machine

open Sys2Proof

/-! ### How a command ends (R144, R146) -/

/-- The errors that 60_exceptions.md R144 lists for a command, the lowest code first. -/
def errorsOf : Instr → List ErrorKind
  | .quantize => [.emptyInput, .lengthMismatch]
  | .deq => [.invalidScale]
  | .deqb => [.invalidScale, .lengthMismatch]

/-- A command that answers either raises one of its errors in the state it began in, or completes. -/
theorem exec_raises_or_completes {i : Instr} {s t : State} (h : exec i s = .next t) :
    (∃ k ∈ errorsOf i, t = raiseError s k) ∨ ∃ u nv, t = completeCommand u nv := by
  cases i with
  | quantize =>
    obtain ⟨-, ht⟩ | ⟨-, -, ht⟩ | ⟨-, -, -, ht⟩ := execQuantize_eq_next h
    · exact .inl ⟨.emptyInput, by decide, ht⟩
    · exact .inl ⟨.lengthMismatch, by decide, ht⟩
    · exact .inr ⟨_, _, ht⟩
  | deq =>
    obtain rfl := Host.Outcome.next.inj ((execDeq_eq s).symm.trans h)
    split
    · exact .inr ⟨_, _, rfl⟩
    · exact .inl ⟨.invalidScale, by decide, rfl⟩
  | deqb =>
    obtain ⟨-, ht⟩ | ⟨-, -, ht⟩ | ⟨-, -, -, ht⟩ := execDeqb_eq_next h
    · exact .inl ⟨.invalidScale, by decide, ht⟩
    · exact .inl ⟨.lengthMismatch, by decide, ht⟩
    · exact .inr ⟨_, _, ht⟩

theorem statusErr_completeCommand (s : State) (nv : Bool) : statusErr (completeCommand s nv).status = 0 := by
  rw [completeCommand_status]
  cases nv <;> decide

theorem statusDone_raiseError (s : State) (k : ErrorKind) : statusDone (raiseError s k).status = true := by
  rw [raiseError_status]
  cases k <;> decide

theorem statusNv_raiseError (s : State) (k : ErrorKind) : statusNv (raiseError s k).status = false := by
  rw [raiseError_status]
  cases k <;> decide

/-- `STATUS.ERR` after a command is 0 or the code of one of its errors. -/
theorem statusErr_mem_of_exec {i : Instr} {s t : State} (h : exec i s = .next t) :
    statusErr t.status ∈ 0 :: (errorsOf i).map ErrorKind.code := by
  obtain ⟨k, hk, rfl⟩ | ⟨u, nv, rfl⟩ := exec_raises_or_completes h
  · rw [statusErr_raiseError]
    exact List.mem_cons_of_mem _ (List.mem_map_of_mem hk)
  · rw [statusErr_completeCommand]
    exact List.mem_cons_self

/-- A command that reports an error has done nothing but raise it. -/
theorem eq_raiseError_of_statusErr_ne_zero {i : Instr} {s t : State} (h : exec i s = .next t)
    (he : statusErr t.status ≠ 0) : ∃ k, t = raiseError s k := by
  obtain ⟨k, -, ht⟩ | ⟨u, nv, rfl⟩ := exec_raises_or_completes h
  · exact ⟨k, ht⟩
  · exact absurd (statusErr_completeCommand u nv) he

/-- Settles O24: the code is not 0 only where an error was raised, and raising writes `STATUS` alone. -/
theorem failedCommandChangesOnlyStatus : Obligations.FailedCommandChangesOnlyStatus := by
  refine ⟨fun s => ⟨raiseError_emptyInput s, raiseError_invalidScale s, raiseError_lengthMismatch s,
    raiseError_illegalCommand s⟩, fun i s t h he => ?_⟩
  obtain ⟨k, rfl⟩ := eq_raiseError_of_statusErr_ne_zero h he
  exact ⟨raiseError_eq s k, statusDone_raiseError s k, statusNv_raiseError s k⟩

/-- Settles O23: the lists of the statement are 0 and the codes of `errorsOf`. -/
theorem eachCommandReportsOnlyItsErrors : Obligations.EachCommandReportsOnlyItsErrors :=
  fun _ _ => ⟨statusErr_mem_of_exec, statusErr_mem_of_exec, statusErr_mem_of_exec⟩

/-! ### Priority (R147) -/

theorem statusErr_of_next_raiseError {o : Host.Outcome State Fault Refusal} {s t : State} {k : ErrorKind}
    (hraise : o = .next (raiseError s k)) (h : o = .next t) : statusErr t.status = k.code := by
  obtain rfl := Host.Outcome.next.inj (hraise.symm.trans h)
  exact statusErr_raiseError s k

theorem undecodable_of_gt_or_zero {v : Word} (hv : 3 < v.toNat ∨ v = 0) (i : Instr) : decode v ≠ .ok i := by
  intro hd
  obtain rfl := eq_encode_of_decode hd
  revert hv
  cases i <;> decide

/-- Settles O25: the test for the lower code comes first, whatever the lengths are, and an illegal word runs no
command. -/
theorem lowestErrorCodeIsReported : Obligations.LowestErrorCodeIsReported := by
  refine fun s t rest v => ⟨fun h hempty _ => ?_, fun h hscale _ => ?_, fun hs hv h => ?_⟩
  · exact statusErr_of_next_raiseError (execQuantize_of_empty hempty) h
  · exact statusErr_of_next_raiseError (execDeqb_of_invalidScale hscale) h
  · have hraise := executeCommand_of_undecodable (undecodable_of_gt_or_zero hv) (s.withScript rest)
    exact statusErr_of_next_raiseError ((step_wr_cmd hs).trans hraise) h

/-! ### What changes `STATUS` (R148) -/

theorem hostWr_keeps_status {off v : Word} {s t : State} (hoff : off ≠ Reg.cmd.offset)
    (h : hostWr off v s = .next t) : t.status = s.status := by
  cases hr : Reg.ofOffset off with
  | none => rw [hostWr_of_none hr] at h; cases h
  | some r =>
    have hcmd : r ≠ .cmd := fun hc => hoff (hc ▸ Reg.offset_of_ofOffset hr).symm
    obtain rfl := Host.Outcome.next.inj ((hostWr_of_some hr hcmd v s).symm.trans h)
    exact writeReg_status s r v

theorem hostRd_keeps_status {off : Word} {s t : State} (h : hostRd off s = .next t) : t.status = s.status := by
  cases hr : Reg.ofOffset off with
  | none => rw [hostRd_of_none hr] at h; cases h
  | some r =>
    obtain rfl := Host.Outcome.next.inj ((hostRd_of_some hr s).symm.trans h)
    rfl

theorem performOp_keeps_status {op : HostOp} {s t : State} (h : performOp op s = .next t) (hreset : op ≠ .reset)
    (hcmd : ∀ v, op ≠ .wr Reg.cmd.offset v) : t.status = s.status := by
  cases op with
  | rd off => exact hostRd_keeps_status h
  | wr off v => exact hostWr_keeps_status (fun hoff => hcmd v (congrArg (HostOp.wr · v) hoff)) h
  | ld n addr =>
    obtain ⟨-, rfl⟩ := hostLd_eq_next.1 h
    rfl
  | st n addr v =>
    obtain ⟨-, rfl⟩ := hostSt_eq_next.1 h
    rfl
  | reset => exact absurd rfl hreset

/-- Settles O57, one kind of operation after the other. -/
theorem onlyCommandsAndResetChangeStatus : Obligations.OnlyCommandsAndResetChangeStatus :=
  fun s _ _ rest hs h => performOp_keeps_status (s := s.withScript rest) ((step_cons hs).symm.trans h)

end Sys2Proof.Machine
end

section
/-! PROOF. Reset (70_reset_and_hazards.md R160, R163): what the reset event leaves in the registers, and what each
command reports straight after it. -/

namespace Sys2Proof.Machine

open Sys2Proof

/-! ### The reset event (R160) -/

/-- `F32_BASE`, of which only the high bits are stored, reads 0 too (10_state.md R25). -/
@[simp] theorem readReg_resetEvent (s : State) (r : Reg) : readReg (resetEvent s) r = 0 := by
  cases r with
  | f32Base => exact BitVec.zero_append_zero
  | _ => rfl

/-- Power-on is a reset (R160). -/
theorem resetEvent_reset : resetEvent State.reset = State.reset := rfl

theorem step_reset {s : State} {rest : List HostOp} (h : s.host.script = .reset :: rest) :
    step s = .next (resetEvent (s.withScript rest)) :=
  step_cons h

/-- Settles O18: the step is the reset event, and the state after power-on is one. -/
theorem resetClearsEveryRegisterAndKeepsMemory : Obligations.ResetClearsEveryRegisterAndKeepsMemory :=
  ⟨fun s rest h => ⟨resetEvent (s.withScript rest), step_reset h, readReg_resetEvent _, resetEvent_mem _,
      resetEvent_host _, resetEvent_params _⟩,
    fun r => resetEvent_reset ▸ readReg_resetEvent State.reset r⟩

/-! ### Commands straight after reset (R163) -/

theorem validScale_zero : validScale 0 = false := by decide

/-- Settles O19: after reset there are no elements, and `SCALE` holds +0, which is not a valid scale. -/
theorem commandsStraightAfterResetReportErrors : Obligations.CommandsStraightAfterResetReportErrors := by
  have hscale : validScale State.reset.scale = false := validScale_zero
  obtain ⟨hempty, -⟩ := quantizeReportsEmptyInputAndLengthMismatch State.reset
  obtain ⟨-, hdeq⟩ := deqWritesItsResultOrReportsInvalidScale State.reset
  exact ⟨hempty rfl, hdeq hscale, execDeqb_next_of_invalidScale hscale⟩

end Sys2Proof.Machine
end
